-- ==== Sys2Proof/Word.lean ====
section
/-! DEFINITION. The word type of the block's port and control registers (rule R10), register numbers (rule R82), and
the plain helper `bitlen` of rule R13. -/

namespace Sys2Proof

/-- A control register, a limb or a command word: 32 bits, bit 0 least significant (rules R10, R11). -/
abbrev Word := BitVec 32

/-- A big register's number: "a 3-bit unsigned number used directly as the index into `R[0..7]`; all eight values are
legal" (rule R82). -/
abbrev Reg := Fin 8

/-- `bitlen(a)`: 0 for 0, else `floor(log2 a) + 1` (rule R13). -/
def bitlen (a : Nat) : Nat := if a = 0 then 0 else a.log2 + 1

end Sys2Proof
end

