-- ==== Sys2Proof/Config.lean ====
section
/-! DEFINITION. What the spec leaves OPEN as a parameter of the model: the operand width `W` (rule R8) and the generator
`RNG` (rule R9). Both are opaque constants: nothing in Lean can evaluate them, so a claim about them holds for every
width and every generator. -/

namespace Sys2Proof

/-- Rule R8: "`W` is a multiple of 32 and `W >= 64`". DEDUCED: `W` also fits 32 bits, since `PARAM`, a 32-bit register,
has the value `W` (rule R36); log entry 2. -/
abbrev legalW (W : Nat) : Prop := W % 32 = 0 ∧ 64 ≤ W ∧ W < 2 ^ 32

/-- The opaque state type `S` of the generator (rule R9), coded as plain data (DESIGN CHOICE, safe: log entry 3): a state
may carry values that its next draws answer, first one first; a state that carries none is a code that only
`Config.rngBits` and `Config.rngUniform` read. -/
structure Source where
  replay : List Nat
  code : Nat
  deriving DecidableEq, Repr, Inhabited

/-- How many limbs beyond the two that every legal width has (rule R8). FREE: no value can be proved of it. -/
opaque Config.extraLimbs : Nat

/-- The operand width `W` (rule R8): any multiple of 32 from 64 up that a 32-bit `PARAM` can hold (log entries 1, 2). -/
def Config.W : Nat := 64 + 32 * (Config.extraLimbs % (2 ^ 27 - 2))

/-- `rng_seed : [0,2^W) -> S` (rule R9). FREE: "a model assumes nothing of `RNG` beyond the ranges and that each function
depends on its arguments alone" (log entry 3). -/
opaque Config.rngSeed : Nat → Source

/-- `rng_bits : S x n -> S x v` (rule R9), of a state's code. FREE; `drawBits` (`Machine/Ops.lean`) brings the value into
the range of rule R187 (log entry 3). -/
opaque Config.rngBits : Nat → Nat → Nat × Nat

/-- `rng_uniform : S x b -> S x v` (rule R9), of a state's code. FREE; `drawUniform` (`Machine/Ops.lean`) brings the value
into the range of rule R188 (log entry 3). -/
opaque Config.rngUniform : Nat → Nat → Nat × Nat

/-- What host software makes of `powMod` with modulus 0: the block's `MODEXP` faults `ZERO_MODULUS` (rule R121), and the
spec does not say what the host then does. FREE (DESIGN CHOICE, safe: log entry 21). -/
opaque Config.powModOfZero : Nat → Nat → Nat

end Sys2Proof
end

