-- ==== Sys2Proof/Syntax.lean ====
section
/-! DEFINITION. The eleven commands of `NTE-1` (rules R2, R84, R85), their assembler text (rule R98) and the
pseudo-commands that are spellings of real ones (rule R99). -/

namespace Sys2Proof

/-- One command, with the register fields its row of rule R84 uses, in the order `RD, RA, RB, RM`. -/
inductive Instr where
  /-- `NOP` (rule R210). -/
  | nop
  /-- `MODMUL Rd, Ra, Rb, Rm` (rule R111). -/
  | modmul (rd ra rb rm : Reg)
  /-- `MODEXP Rd, Ra, Rb, Rm` (rule R121). -/
  | modexp (rd ra rb rm : Reg)
  /-- `GCD Rd, Ra, Rb` (rule R137). -/
  | gcd (rd ra rb : Reg)
  /-- `MODINV Rd, Ra, Rm` (rule R141). -/
  | modinv (rd ra rm : Reg)
  /-- `ISPRIME Ra` (rule R160). -/
  | isprime (ra : Reg)
  /-- `MAKEPRIME Rd` (rule R171). -/
  | makeprime (rd : Reg)
  /-- `SEED Ra` (rule R189). -/
  | seed (ra : Reg)
  /-- `RNGCLR` (rule R192). -/
  | rngclr
  /-- `RNDBITS Rd` (rule R190). -/
  | rndbits (rd : Reg)
  /-- `RNDUNI Rd, Ra` (rule R191). -/
  | rnduni (rd ra : Reg)
  deriving DecidableEq, Repr

/-- A register as rule R98 writes it. -/
def regName (r : Reg) : String := "R" ++ toString r.val

/-- Used fields separated by commas (rule R98). -/
def operandList (rs : List Reg) : String := ", ".intercalate (rs.map regName)

/-- The assembler text of a command: its mnemonic, then its used fields (rule R98). -/
def Instr.asm : Instr → String
  | .nop => "NOP"
  | .modmul rd ra rb rm => "MODMUL " ++ operandList [rd, ra, rb, rm]
  | .modexp rd ra rb rm => "MODEXP " ++ operandList [rd, ra, rb, rm]
  | .gcd rd ra rb => "GCD " ++ operandList [rd, ra, rb]
  | .modinv rd ra rm => "MODINV " ++ operandList [rd, ra, rm]
  | .isprime ra => "ISPRIME " ++ operandList [ra]
  | .makeprime rd => "MAKEPRIME " ++ operandList [rd]
  | .seed ra => "SEED " ++ operandList [ra]
  | .rngclr => "RNGCLR"
  | .rndbits rd => "RNDBITS " ++ operandList [rd]
  | .rnduni rd ra => "RNDUNI " ++ operandList [rd, ra]

/-- The big register a command writes at completion, if it has one (rules R22, R85). -/
def Instr.dest : Instr → Option Reg
  | .nop => none
  | .modmul rd _ _ _ => some rd
  | .modexp rd _ _ _ => some rd
  | .gcd rd _ _ => some rd
  | .modinv rd _ _ => some rd
  | .isprime _ => none
  | .makeprime rd => some rd
  | .seed _ => none
  | .rngclr => none
  | .rndbits rd => some rd
  | .rnduni rd _ => some rd

/-- `SIGN Rd, Rmsg, Rkey_d, Rn` is `MODEXP` (rule R99). -/
def pseudoSign (rd rmsg rkey rn : Reg) : Instr := .modexp rd rmsg rkey rn

/-- `ENC Rd, Rmsg, Rkey_e, Rn` is the same `MODEXP` (rule R99). -/
def pseudoEnc (rd rmsg rkey rn : Reg) : Instr := .modexp rd rmsg rkey rn

/-- `DEC Rd, Rc, Rkey_d, Rn` is the same `MODEXP` (rule R99). -/
def pseudoDec (rd rc rkey rn : Reg) : Instr := .modexp rd rc rkey rn

/-- `SQRMOD Rd, Ra, Rm` is `MODMUL Rd, Ra, Ra, Rm` (rule R99). -/
def pseudoSqrmod (rd ra rm : Reg) : Instr := .modmul rd ra ra rm

end Sys2Proof
end

