-- ==== Sys2Proof/WellFormed.lean ====
section
/-! DEFINITION. What is well formed before any meaning is given: a command word (rules R81, R83, R96), a host access
(rule R59), the width parameter (`legalW`, rule R8). A term of `Instr` needs no check of its own: its only operands are
register numbers, `Fin 8`, "all eight values are legal" (rule R82). These checks are written from the prose of the
rules, field by field; the decoder (`Decode.lean`) is written from the match and mask table, and that both agree is a
statement. -/

namespace Sys2Proof

/-- `w[lo+len-1 : lo]` as an unsigned integer (rule R11). -/
def bitField (lo len : Nat) (w : Word) : Nat := w.toNat / 2 ^ lo % 2 ^ len

/-- Which of the four register fields a command uses (rule R84, column "uses"). -/
structure UsedFields where
  rd : Bool
  ra : Bool
  rb : Bool
  rm : Bool
  deriving DecidableEq, Repr

/-- Rule R84's column "uses" by opcode number; none for `0x07` and `0x0C` to `0xFF` (rule R96). -/
def usedFields : Nat → Option UsedFields
  | 0x00 => some ⟨false, false, false, false⟩
  | 0x01 => some ⟨true, true, true, true⟩
  | 0x02 => some ⟨true, true, true, true⟩
  | 0x03 => some ⟨true, true, true, false⟩
  | 0x04 => some ⟨true, true, false, true⟩
  | 0x05 => some ⟨false, true, false, false⟩
  | 0x06 => some ⟨true, false, false, false⟩
  | 0x08 => some ⟨false, true, false, false⟩
  | 0x09 => some ⟨false, false, false, false⟩
  | 0x0A => some ⟨true, false, false, false⟩
  | 0x0B => some ⟨true, true, false, false⟩
  | _ => none

/-- A field is used, or it is 0 (rule R83). -/
def usedOrZero (used : Bool) (field : Nat) : Bool := used || field == 0

/-- A legal command word: an assigned opcode, bits 31:20 zero, every unused field zero (rules R83, R96). -/
def wordWellFormed (w : Word) : Bool :=
  match usedFields (bitField 0 8 w) with
  | none => false
  | some u =>
    bitField 20 12 w == 0 && usedOrZero u.rd (bitField 8 3 w) && usedOrZero u.ra (bitField 11 3 w)
      && usedOrZero u.rb (bitField 14 3 w) && usedOrZero u.rm (bitField 17 3 w)

/-- "The only access the block accepts is a 32-bit access at an offset that is a multiple of 4 and below `0x1000 + W`"
(rule R59). `size` is in bytes. -/
def accessWellFormed (W addr size : Nat) : Bool :=
  size == 4 && addr % 4 == 0 && decide (addr < 0x1000 + W)

end Sys2Proof
end

