-- ==== Sys2Proof/Decode.lean ====
section
/-! DEFINITION. Command words: the match and mask table of rule R84, the decoder of rule R86 (total on every 32-bit
word, rejecting by name), the encoder of rule R81, and the host's `decodeTableWord`. -/

namespace Sys2Proof

/-- The eleven rows of rule R84. -/
inductive Row where
  | nop | modmul | modexp | gcd | modinv | isprime | makeprime | seed | rngclr | rndbits | rnduni
  deriving DecidableEq, Repr

/-- Why a word is illegal (rule R96); each raises `ILLEGAL_CMD`. -/
inductive Reject where
  /-- `OPC` in `0x07`, `0x0C` to `0xFF`. -/
  | unassignedOpcode
  /-- A non-zero bit in 31:20. -/
  | reservedBits
  /-- A legal `OPC` and a non-zero unused field. -/
  | unusedField
  deriving DecidableEq, Repr

/-- The rows in the table's order. -/
def Row.all : List Row :=
  [.nop, .modmul, .modexp, .gcd, .modinv, .isprime, .makeprime, .seed, .rngclr, .rndbits, .rnduni]

/-- Column "match" of rule R84. -/
def Row.pattern : Row → Word
  | .nop => 0x00000000
  | .modmul => 0x00000001
  | .modexp => 0x00000002
  | .gcd => 0x00000003
  | .modinv => 0x00000004
  | .isprime => 0x00000005
  | .makeprime => 0x00000006
  | .seed => 0x00000008
  | .rngclr => 0x00000009
  | .rndbits => 0x0000000A
  | .rnduni => 0x0000000B

/-- Column "mask" of rule R84. -/
def Row.mask : Row → Word
  | .nop => 0xFFFFFFFF
  | .modmul => 0xFFF000FF
  | .modexp => 0xFFF000FF
  | .gcd => 0xFFFE00FF
  | .modinv => 0xFFF1C0FF
  | .isprime => 0xFFFFC7FF
  | .makeprime => 0xFFFFF8FF
  | .seed => 0xFFFFC7FF
  | .rngclr => 0xFFFFFFFF
  | .rndbits => 0xFFFFF8FF
  | .rnduni => 0xFFFFC0FF

/-- `word & mask == match` (rules R84, R86). -/
def Row.selects (r : Row) (w : Word) : Bool := w &&& r.mask == r.pattern

/-- A register field, `w[lo+2 : lo]` (rule R81). -/
def regField (lo : Nat) (w : Word) : Reg := Fin.ofNat 8 (w.toNat / 2 ^ lo)

/-- Bits 10:8 (rule R81). -/
def rdField (w : Word) : Reg := regField 8 w

/-- Bits 13:11 (rule R81). -/
def raField (w : Word) : Reg := regField 11 w

/-- Bits 16:14 (rule R81). -/
def rbField (w : Word) : Reg := regField 14 w

/-- Bits 19:17 (rule R81). -/
def rmField (w : Word) : Reg := regField 17 w

/-- The command of a row, "its fields read from the positions of rule R81" (rule R86). -/
def Row.command (r : Row) (w : Word) : Instr :=
  match r with
  | .nop => .nop
  | .modmul => .modmul (rdField w) (raField w) (rbField w) (rmField w)
  | .modexp => .modexp (rdField w) (raField w) (rbField w) (rmField w)
  | .gcd => .gcd (rdField w) (raField w) (rbField w)
  | .modinv => .modinv (rdField w) (raField w) (rmField w)
  | .isprime => .isprime (raField w)
  | .makeprime => .makeprime (rdField w)
  | .seed => .seed (raField w)
  | .rngclr => .rngclr
  | .rndbits => .rndbits (rdField w)
  | .rnduni => .rnduni (rdField w) (raField w)

/-- Which clause of rule R96 refuses a word that no row selects. -/
def rejectReason (w : Word) : Reject :=
  if Row.all.any (fun r => w &&& 0xFF == r.pattern) then
    if w &&& 0xFFF00000 == 0 then .unusedField else .reservedBits
  else .unassignedOpcode

/-- Rule R86: test `word & mask == match` row by row; if one matches, the word is that command; if none does, it is
illegal (rule R96). -/
def decode (w : Word) : Except Reject Instr :=
  match Row.all.find? (fun r => r.selects w) with
  | some r => .ok (r.command w)
  | none => .error (rejectReason w)

/-- `OPC | RD << 8 | RA << 11 | RB << 14 | RM << 17` (rule R81). -/
def assemble (r : Row) (rd ra rb rm : Reg) : Word :=
  r.pattern ||| (BitVec.ofNat 32 rd.val <<< 8) ||| (BitVec.ofNat 32 ra.val <<< 11)
    ||| (BitVec.ofNat 32 rb.val <<< 14) ||| (BitVec.ofNat 32 rm.val <<< 17)

/-- The row of a command. -/
def Instr.row : Instr → Row
  | .nop => .nop
  | .modmul _ _ _ _ => .modmul
  | .modexp _ _ _ _ => .modexp
  | .gcd _ _ _ => .gcd
  | .modinv _ _ _ => .modinv
  | .isprime _ => .isprime
  | .makeprime _ => .makeprime
  | .seed _ => .seed
  | .rngclr => .rngclr
  | .rndbits _ => .rndbits
  | .rnduni _ _ => .rnduni

/-- The word of a command: its fields at the places of rule R81, every field it does not use 0 (rule R83). -/
def encode : Instr → Word
  | .nop => assemble .nop 0 0 0 0
  | .modmul rd ra rb rm => assemble .modmul rd ra rb rm
  | .modexp rd ra rb rm => assemble .modexp rd ra rb rm
  | .gcd rd ra rb => assemble .gcd rd ra rb 0
  | .modinv rd ra rm => assemble .modinv rd ra 0 rm
  | .isprime ra => assemble .isprime 0 ra 0 0
  | .makeprime rd => assemble .makeprime rd 0 0 0
  | .seed ra => assemble .seed 0 ra 0 0
  | .rngclr => assemble .rngclr 0 0 0 0
  | .rndbits rd => assemble .rndbits rd 0 0 0
  | .rnduni rd ra => assemble .rnduni rd ra 0 0

/-- The command the decoder reads from the word `w` of a table row of `nbits` bits: a command is one 32-bit word
(rule R80), so a number that does not fit 32 bits is none. -/
def decodeTableWord (_nbits w : Nat) : Option Instr :=
  if w < 2 ^ 32 then
    match decode (BitVec.ofNat 32 w) with
    | .ok i => some i
    | .error _ => none
  else none

end Sys2Proof
end

