-- ==== Sys2Proof/Machine/State.lean ====
section
/-! DEFINITION. The complete state of the block (rules R20 to R42) as plain data, with the three fields that are the
model's own (`host`, `turns`, `resp`), the reasons a step can stop, and the state after reset (rules R42, R280). -/

namespace Sys2Proof.Machine

/-- What stops the machine: NOTHING does, so this closed inductive has no constructor. Every fault of the spec is a next
state, the engine phase `fault` (rules R250, R253): nobody raises a `Fault`, which is safe. -/
inductive Fault where
  deriving DecidableEq, Repr

/-- Why an instruction has no meaning. -/
inductive Refusal where
  /-- Answered only by an arm of `exec` that has no meaning yet; no arm of this model does. Safe: it stops. -/
  | notModelled (mnemonic : String)
  deriving DecidableEq, Repr

/-- `STATUS.ERRCODE` (rule R251). "Codes 6 to 255 are never produced." -/
inductive FaultCode where
  /-- 1, `ILLEGAL_CMD`. -/
  | illegalCmd
  /-- 2, `ZERO_MODULUS`. -/
  | zeroModulus
  /-- 3, `RNG_UNINIT`. -/
  | rngUninit
  /-- 4, `RNG_REINIT`. -/
  | rngReinit
  /-- 5, `RANGE`. -/
  | range
  deriving DecidableEq, Repr

/-- `MODEXP`: the latched base, exponent and modulus, and the working values `acc`, `p`, `x` (rules R40, R123). -/
structure ExpWork where
  b0 : Nat
  e : Nat
  m : Nat
  acc : Nat
  p : Nat
  x : Nat
  deriving DecidableEq, Repr

/-- `GCD`: the latched operands and the working values `a`, `b` (rules R40, R138). -/
structure GcdWork where
  a0 : Nat
  b0 : Nat
  a : Nat
  b : Nat
  deriving DecidableEq, Repr

/-- `MODINV`: the latched operand `a0` and modulus `n`, and the working values `r`, `r1`, `q` (unsigned), `t`, `t1`
(signed) (rules R40, R142). `q` is none until the first iteration has divided. -/
structure InvWork where
  a0 : Nat
  n : Nat
  r : Nat
  r1 : Nat
  q : Option Nat
  t : Int
  t1 : Int
  deriving DecidableEq, Repr

/-- Where a Miller–Rabin test stands, between two atomic steps of rule R162. -/
inductive TestStage where
  /-- Round `i` is about to draw its witness. -/
  | draw
  /-- The inner `powMod` with `b0 = a`, `e = r`, `m = n`. -/
  | pow (w : ExpWork)
  /-- The squaring loop, with the witness `a`, `y` and `j`. -/
  | square (a y j : Nat)
  /-- The verdict is known and not yet delivered. -/
  | verdict (prime : Bool)
  deriving DecidableEq, Repr

/-- A Miller–Rabin test: latched `n` and `k = ITER`, `n - 1 = 2^s * r`, round number `i` (rules R40, R162). -/
structure PrimeTest where
  n : Nat
  k : Nat
  s : Nat
  r : Nat
  i : Nat
  stage : TestStage
  deriving DecidableEq, Repr

/-- The command in flight: its opcode (the constructor), `RD`, the source values latched at issue and its working
values (rule R40). -/
inductive Job where
  | nop
  | modmul (rd : Reg) (a b m : Nat)
  | modexp (rd : Reg) (w : ExpWork)
  | gcd (rd : Reg) (w : GcdWork)
  | modinv (rd : Reg) (w : InvWork)
  | isprime (test : PrimeTest)
  /-- `w = BITS`, `k = ITER`; `search` is none when a candidate is about to be drawn, else the test of the candidate
  `c`, which is the test's `n` (rules R172, R173). -/
  | makeprime (rd : Reg) (w k : Nat) (search : Option PrimeTest)
  | seed (value : Nat)
  | rngclr
  | rndbits (rd : Reg) (n : Nat)
  | rnduni (rd : Reg) (bound : Nat)
  deriving DecidableEq, Repr

/-- The engine phase (rule R39), with the latches and working values, "meaningful only in phase `RUN`" (rule R40), inside
`run`, and `ERRCODE`, "0 whenever `ERR` is 0" (rule R29), inside `fault`. -/
inductive Phase where
  | idle
  | run (job : Job)
  | fault (code : FaultCode)
  deriving DecidableEq, Repr

/-- What reaches the block from outside: the host's accesses, `size` in bytes (rules R53, R54, R59), and the reset input
(rule R280). -/
inductive Access where
  | read (addr size : Nat)
  | write (addr size : Nat) (value : Word)
  | reset
  deriving DecidableEq, Repr

/-- One event from outside, and how many engine events fall between it and the next one: "no promise of how many fit
between two host accesses" (rule R207; log entry 4). -/
structure HostStep where
  access : Access
  turns : Nat
  deriving DecidableEq, Repr

/-- What a host access is answered with: the data of a read, the acceptance of a write at the bus, a bus error (rules
R53, R54, R59; log entries 5, 16). -/
inductive Response where
  | data (value : Word)
  | ack
  | busError
  deriving DecidableEq, Repr

/-- The block (rule R20), and the model's own `host`, `turns`, `resp`. -/
structure State where
  /-- `R0..R7`, each an unsigned integer in `[0, 2^W)` (rule R21); the range is part of `State.Inv` (log entry 9). -/
  regs : Vector Nat 8
  /-- `CMD` (rule R25). -/
  cmd : Word
  /-- `ITER` (rule R34). -/
  iter : Word
  /-- `BITS` (rule R35). -/
  bits : Word
  /-- `PARAM`, which holds `W` (rule R36; log entry 1). -/
  param : Word
  /-- `STATUS.DONE` (rule R28). -/
  done : Bool
  /-- `STATUS.PRIME` (rule R30). -/
  prime : Bool
  /-- `STATUS.NOINV` (rule R31). -/
  noinv : Bool
  /-- `STATUS.DROP` (rule R33). -/
  drop : Bool
  /-- The random source (rule R38): `rng_valid` is whether there is a value, and the value is `rng_state`, which "means
  something only while `rng_valid = 1`" (log entry 8). -/
  rng : Option Source
  /-- The engine phase, latches and working values; `BUSY`, `ERR`, `ERRCODE` (rules R27, R29, R39, R40; log entry 7). -/
  phase : Phase
  /-- THE MODEL'S OWN: the events from outside still to come, oldest first (log entry 4). -/
  host : List HostStep
  /-- THE MODEL'S OWN: the engine events that fall before the next access (log entry 4). -/
  turns : Nat
  /-- THE MODEL'S OWN: what the last access was answered with (log entry 5). -/
  resp : Option Response
  deriving DecidableEq, Repr

/-- The state after reset of a block of width `W` (rules R42, R280). -/
def State.resetFor (W : Nat) : State where
  regs := Vector.replicate 8 0
  cmd := 0
  iter := 0
  bits := 0
  param := BitVec.ofNat 32 W
  done := false
  prime := false
  noinv := false
  drop := false
  rng := none
  phase := .idle
  host := []
  turns := 0
  resp := none

/-- The machine right after reset (rule R42); `host`, `turns` and `resp` are the model's own (log entry 15). -/
def State.reset : State := State.resetFor Config.W

end Sys2Proof.Machine
end

