-- ==== Sys2Proof/Machine/Ops.lean ====
section
/-! DEFINITION. The named operations over the state: registers and their limbs, the random source's draws, the command
lifecycle (acceptance, run, completion), taking a fault and returning from one, the reset input. -/

namespace Sys2Proof.Machine

/-- What every meaning and every step answers. -/
abbrev Result := Host.Outcome State Fault Refusal

/-- The operand width, which `PARAM` holds (rule R36; log entry 1). -/
def State.W (s : State) : Nat := s.param.toNat

/-- `R[i]` (rule R14). -/
def State.reg (s : State) (i : Reg) : Nat := s.regs.get i

/-- `R[i] <- v` (rule R14). -/
def State.setReg (s : State) (i : Reg) (v : Nat) : State := { s with regs := s.regs.set i v }

/-- Limb `j` of `v`: `v[32*j+31 : 32*j]` (rules R52, R57). -/
def limb (v j : Nat) : Word := BitVec.ofNat 32 (v / 2 ^ (32 * j))

/-- `v` with limb `j` replaced by `x` "and the other limbs unchanged" (rule R54). -/
def setLimb (v j : Nat) (x : Word) : Nat :=
  v / 2 ^ (32 * (j + 1)) * 2 ^ (32 * (j + 1)) + x.toNat * 2 ^ (32 * j) + v % 2 ^ (32 * j)

/-- `STATUS.BUSY`: exactly in phase `RUN` (rules R27, R39). -/
def State.busy (s : State) : Bool :=
  match s.phase with
  | .run _ => true
  | _ => false

/-- `STATUS.ERR`: exactly in phase `FAULT` (rules R29, R39). -/
def State.err (s : State) : Bool :=
  match s.phase with
  | .fault _ => true
  | _ => false

/-- `rng_valid`, which `STATUS.RNGV` mirrors (rules R32, R38). -/
def State.rngValid (s : State) : Bool := s.rng.isSome

/-- The phase alone changes. -/
def State.setPhase (s : State) (p : Phase) : State := { s with phase := p }

/-- The random source alone changes: `some st` is `rng_valid = 1` with `rng_state = st`, `none` is `rng_valid = 0`
(rule R38). -/
def State.setRng (s : State) (r : Option Source) : State := { s with rng := r }

/-- `STATUS.PRIME <- b` (rule R30). -/
def State.setPrime (s : State) (b : Bool) : State := { s with prime := b }

/-- `STATUS.NOINV <- b` (rule R31). -/
def State.setNoinv (s : State) (b : Bool) : State := { s with noinv := b }

/-- `STATUS.DONE <- b` (rule R28). -/
def State.setDone (s : State) (b : Bool) : State := { s with done := b }

/-- `STATUS.DROP <- b` (rule R33). -/
def State.setDrop (s : State) (b : Bool) : State := { s with drop := b }

/-- `CMD <- w` (rule R25). -/
def State.setCmd (s : State) (w : Word) : State := { s with cmd := w }

/-- `ITER <- v` (rule R34). -/
def State.setIter (s : State) (v : Word) : State := { s with iter := v }

/-- `BITS <- v` (rule R35). -/
def State.setBits (s : State) (v : Word) : State := { s with bits := v }

/-- What the current access is answered with (log entry 5). -/
def State.respond (s : State) (r : Response) : State := { s with resp := some r }

/-- `n` engine events fall before the next access (log entry 4). -/
def State.grant (s : State) (n : Nat) : State := { s with turns := n }

/-- The events from outside still to come (log entry 4). -/
def State.setHost (s : State) (h : List HostStep) : State := { s with host := h }

/-- What the generator answers to one call, before it is brought into range: the next value the state carries, else that
of `gen`, the generator's function on the state's code (rule R9; log entry 3). -/
def nextRaw (gen : Nat → Nat × Nat) (st : Source) : Source × Nat :=
  match st.replay with
  | v :: rest => ({ st with replay := rest }, v)
  | [] => ({ st with code := (gen st.code).1 }, (gen st.code).2)

/-- `draw_bits(n)`: one call of `rng_bits`, `0 <= v < 2^n` (rule R187). The reduction changes no generator that keeps the
range of rule R9 (log entry 3). Answers the new state and the value. -/
def drawBits (st : Source) (n : Nat) : Source × Nat :=
  let d := nextRaw (fun code => Config.rngBits code n) st
  (d.1, d.2 % 2 ^ n)

/-- `draw_uniform(b)`: one call of `rng_uniform`, `0 <= v < b` for `1 <= b` (rule R188; log entry 3). -/
def drawUniform (st : Source) (b : Nat) : Source × Nat :=
  let d := nextRaw (fun code => Config.rngUniform code b) st
  (d.1, d.2 % b)

/-- The acceptance of a `CMD` write (rule R205): `CMD <- w`, `STATUS.DONE <- 0`. -/
def State.accept (s : State) (w : Word) : State := ((s.setCmd w).setDone false).respond .ack

/-- The engine has `job` in flight: `STATUS.BUSY <- 1`, latches and working values as `job` says (rules R205, R40). -/
def State.runJob (s : State) (job : Job) : State := s.setPhase (.run job)

/-- Completion (rule R208), after the results are written: `STATUS.BUSY <- 0`, `STATUS.DONE <- 1`. -/
def State.complete (s : State) : State := (s.setPhase .idle).setDone true

/-- TAKING A FAULT, `raise Fault(code)` (rule R253): `ERR <- 1`, `ERRCODE <- code`, `BUSY` and `DONE` stay 0 (the
acceptance cleared `DONE`), `CMD` holds the word; "Nothing else changes". -/
def State.raiseFault (s : State) (code : FaultCode) : State := s.setPhase (.fault code)

/-- RETURN FROM A FAULT (rule R257): `ERR <- 0`, `ERRCODE <- 0`, phase `IDLE`. "Nothing is restored." In the other phases
`ERR` is 0 already. -/
def State.clearErr (s : State) : State :=
  match s.phase with
  | .fault _ => s.setPhase .idle
  | _ => s

/-- A dropped write (rules R58, R206): nothing is stored or issued, and `STATUS.DROP` is set. -/
def State.dropWrite (s : State) : State := (s.setDrop true).respond .ack

/-- The reset input (rule R280): every register takes its reset value, `PARAM = W` as before, and "a command in flight is
abandoned". Only the model's own record of what comes next from outside stays (log entry 13). -/
def State.hardReset (s : State) : State :=
  ((State.resetFor s.W).setHost s.host).grant s.turns

/-- The lowest fault code whose condition holds (rule R255); the conditions stand in the order of their codes. -/
def firstFault : List (Bool × FaultCode) → Option FaultCode
  | [] => none
  | (holds, code) :: rest => if holds then some code else firstFault rest

end Sys2Proof.Machine
end

