-- ==== Sys2Proof/Machine/Arith.lean ====
section
/-! DEFINITION. The engine's arithmetic, exact over the integers (rule R13): the multiplier's contract (rule R110) and
the atomic steps of the loops that commands run (rules R123, R138, R142, R162, R163). -/

namespace Sys2Proof.Machine

/-- `mulmod(a, b, m) = (a * b) mod m` (rule R110): "the only way the engine multiplies" in `MODMUL`, `MODEXP` and
`ISPRIME` (rule R114). -/
def mulmod (a b m : Nat) : Nat := a * b % m

/-- Issue of the exponentiation loop: `acc <- 1; p <- b0; x <- e` (rule R123). -/
def expStart (b0 e m : Nat) : ExpWork := { b0, e, m, acc := 1, p := b0, x := e }

/-- One iteration (rule R123): multiply by the not yet squared base when the bit is 1, square, halve. -/
def expStep (w : ExpWork) : ExpWork :=
  { w with
    acc := if w.x % 2 = 1 then mulmod w.acc w.p w.m else w.acc
    p := mulmod w.p w.p w.m
    x := w.x / 2 }

/-- Issue of Euclid's loop (rule R138). -/
def gcdStart (a b : Nat) : GcdWork := { a0 := a, b0 := b, a, b }

/-- One iteration: `(a, b) <- (b, a mod b)` (rule R138). -/
def gcdStep (w : GcdWork) : GcdWork := { w with a := w.b, b := w.a % w.b }

/-- Issue of the extended loop: `(r, r1) <- (n, a)`, `(t, t1) <- (0, 1)` (rule R142). -/
def invStart (a n : Nat) : InvWork := { a0 := a, n, r := n, r1 := a, q := none, t := 0, t1 := 1 }

/-- One iteration of the extended loop (rule R142). `r - q * r1` is not negative, since `q` is the floor quotient. -/
def invStep (w : InvWork) : InvWork :=
  let q := w.r / w.r1
  { w with r := w.r1, r1 := w.r - q * w.r1, q := some q, t := w.t1, t1 := w.t - (q : Int) * w.t1 }

/-- What `MODINV` returns (rule R141): the sentinel 0 when there is no inverse, else `t mod n` with floor-mod (rule R143). -/
def invResult (w : InvWork) : Nat := if w.r = 1 then (w.t % (w.n : Int)).toNat else 0

/-- The decomposition loop `while r[0] == 0 do r <- r >> 1; s <- s + 1` (rule R160), for at most `fuel` turns. Answers
`(s, r)`. -/
def oddPart : (fuel s r : Nat) → Nat × Nat
  | 0, s, r => (s, r)
  | fuel + 1, s, r => if r % 2 = 0 then oddPart fuel (s + 1) (r / 2) else (s, r)

/-- `(s, r)` with `n - 1 = 2^s * r`, `r` odd, for `n >= 5` (rule R163); `bitlen(n)` halvings are more than enough. -/
def decompose (n : Nat) : Nat × Nat := oddPart (bitlen n) 0 (n - 1)

/-- The fast path (rule R160): `{0, 1, 4}` composite, `{2, 3}` prime, no verdict from 5 up. -/
def fastVerdict (n : Nat) : Option Bool :=
  if n = 0 ∨ n = 1 ∨ n = 4 then some false
  else if n = 2 ∨ n = 3 then some true
  else none

/-- Issue of `isPrime(n, k)` (rules R160, R162): the fast path, else the decomposition and round 1, or the verdict
"prime" at once when there is no round (rule R167). -/
def testStart (n k : Nat) : PrimeTest :=
  { n, k, s := (decompose n).1, r := (decompose n).2, i := 1
    stage :=
      match fastVerdict n with
      | some v => .verdict v
      | none => if k = 0 then .verdict true else .draw }

/-- A round has passed: the next one, or "prime" after round `k` (rule R160). -/
def roundPassed (t : PrimeTest) : PrimeTest :=
  if t.i < t.k then { t with i := t.i + 1, stage := .draw } else { t with stage := .verdict true }

/-- A round proves compositeness: the verdict, and "later rounds draw nothing" (rules R160, R161). -/
def roundFailed (t : PrimeTest) : PrimeTest := { t with stage := .verdict false }

/-- The draw has answered `v`: `a <- 2 + v`, and `powMod(a, r, n)` starts (rules R160, R164). -/
def witnessDrawn (t : PrimeTest) (v : Nat) : PrimeTest :=
  { t with stage := .pow (expStart (2 + v) t.r t.n) }

/-- The inner `powMod` has ended with `y <- acc`: the round passes when `y` is 1 or `n - 1`, else `j <- 1` and the
squaring loop (rule R160). Rule R162 names no step for this test: `y <- acc`, the test and, where it holds, the round's end
are one event (DESIGN CHOICE, log entry 6). -/
def powEnded (t : PrimeTest) (a y : Nat) : PrimeTest :=
  if y = 1 ∨ y = t.n - 1 then roundPassed t else { t with stage := .square a y 1 }

/-- One turn of the squaring loop, or the round's end (rule R160). `j <= s - 1` is a signed comparison (rule R163), that
is `j + 1 <= s`. The loop's exit test and the round's end are one event (DESIGN CHOICE, log entry 6). -/
def squareStep (t : PrimeTest) (a y j : Nat) : PrimeTest :=
  if j + 1 ≤ t.s ∧ y ≠ t.n - 1 then
    let y' := mulmod y y t.n
    if y' = 1 then roundFailed t else { t with stage := .square a y' (j + 1) }
  else if y ≠ t.n - 1 then roundFailed t
  else roundPassed t

/-- One atomic step of a test (rule R162), with the random source before it; only the draw moves the source. With no
valid source a draw does not exist, and the test stands still (log entry 11); issue excludes it (rule R254). -/
def testEvent (t : PrimeTest) (rng : Option Source) : PrimeTest × Option Source :=
  match t.stage with
  | .draw =>
    match rng with
    | some st => (witnessDrawn t (drawUniform st (t.n - 3)).2, some (drawUniform st (t.n - 3)).1)
    | none => (t, none)
  | .pow w => (if w.x = 0 then powEnded t w.b0 w.acc else { t with stage := .pow (expStep w) }, rng)
  | .square a y j => (squareStep t a y j, rng)
  | .verdict _ => (t, rng)

/-- The candidate of one attempt: `draw_bits(w)` answered `c`, and `c + 1` when `w == 1` (rules R171, R172). -/
def candidate (w c : Nat) : Nat := if w = 1 then c + 1 else c

end Sys2Proof.Machine
end

