-- ==== Sys2Proof/Machine/Flags.lean ====
section
/-! DEFINITION. The word of `STATUS` (rule R26), its write-1-to-clear rule, the number of a fault code (rule R251), and
the flags that a completed command writes (rules R30, R31). -/

namespace Sys2Proof.Machine

/-- The value `STATUS.ERRCODE` takes (rule R251). -/
def FaultCode.number : FaultCode → Nat
  | .illegalCmd => 1
  | .zeroModulus => 2
  | .rngUninit => 3
  | .rngReinit => 4
  | .range => 5

/-- `STATUS.ERRCODE`: "0 whenever `ERR` is 0" (rule R29). -/
def State.errCode (s : State) : Nat :=
  match s.phase with
  | .fault code => code.number
  | _ => 0

/-- Flag `b` at bit `i` of a word. -/
def flagAt (b : Bool) (i : Nat) : Word := if b then 1#32 <<< i else 0

/-- The word a read of `STATUS` returns (rule R26): `BUSY` 0, `DONE` 1, `ERR` 2, `PRIME` 3, `NOINV` 4, `RNGV` 5, `DROP` 6,
bit 7 reads 0, `ERRCODE` 15:8, bits 31:16 read 0. -/
def State.statusWord (s : State) : Word :=
  flagAt s.busy 0 ||| flagAt s.done 1 ||| flagAt s.err 2 ||| flagAt s.prime 3 ||| flagAt s.noinv 4
    ||| flagAt s.rngValid 5 ||| flagAt s.drop 6 ||| (BitVec.ofNat 32 s.errCode <<< 8)

/-- A write to `STATUS` (rule R26): a 1 in bit 1, 2 or 6 clears `DONE`, `ERR` (with `ERRCODE`, rule R257) or `DROP`; every
other bit of the written word has no effect. -/
def State.writeStatus (s : State) (v : Word) : State :=
  let s1 := if v.getLsbD 1 then s.setDone false else s
  let s2 := if v.getLsbD 2 then s1.clearErr else s1
  if v.getLsbD 6 then s2.setDrop false else s2

/-- A completed `ISPRIME` writes its verdict to `PRIME` (rule R30). -/
def State.writeVerdict (s : State) (prime : Bool) : State := s.setPrime prime

/-- `NOINV` of a completed `MODINV`: 1 when `gcd(a, n) != 1` (rule R31), `r` being that gcd (rule R142). -/
def noInverse (r : Nat) : Bool := r != 1

end Sys2Proof.Machine
end

