-- ==== Sys2Proof/Machine/Operands.lean ====
section
/-! DEFINITION. The operand forms (rules R82, R85): a big register named by a field of the command word, and the two
scalar arguments, which come from `ITER` and `BITS` and not from the command word. Each is read once, at issue (rule
R22). Beside them, the conditions of rule R251 on operands. -/

namespace Sys2Proof.Machine

/-- A source register operand: `R[RA]`, `R[RB]` or `R[RM]` (rule R82). -/
def State.sourceOperand (s : State) (r : Reg) : Nat := s.reg r

/-- `iterations`, from `ITER` (rules R34, R82); "Every 32-bit value is legal". -/
def State.iterOperand (s : State) : Nat := s.iter.toNat

/-- `bitWidth`, and the `n` of `bits(n)`, from `BITS` (rules R35, R82). -/
def State.bitsOperand (s : State) : Nat := s.bits.toNat

/-- Code 2's condition, `R[RM] == 0` (rule R251). -/
def State.zeroModulus (s : State) (rm : Reg) : Bool := s.sourceOperand rm == 0

/-- Code 3's condition, `rng_valid == 0` (rule R251). -/
def State.rngUninit (s : State) : Bool := !s.rngValid

/-- Code 5's condition on `BITS`, `BITS > W` (rule R251). -/
def State.bitsOutOfRange (s : State) : Bool := decide (s.W < s.bitsOperand)

end Sys2Proof.Machine
end

