-- ==== Sys2Proof/Machine/Engine.lean ====
section
/-! DEFINITION. The engine (rules R205 to R209): one atomic event of the command in flight, a number of them, and issue.
-/

namespace Sys2Proof.Machine

/-- One event of a prime search (rule R173): the candidate's draw, a step of its test, the retry, or the completion. With
no valid source the draw does not exist (log entry 11). The candidate's draw, its `+1` and the issue step of the inner
`isPrime` (fast path, decomposition) are one event (DESIGN CHOICE, log entry 6). -/
def searchEvent (rd : Reg) (w k : Nat) (search : Option PrimeTest) (s : State) : State :=
  match search with
  | none =>
    match s.rng with
    | some st =>
      (s.setRng (some (drawBits st w).1)).runJob
        (.makeprime rd w k (some (testStart (candidate w (drawBits st w).2) k)))
    | none => s
  | some t =>
    match t.stage with
    | .verdict true => ((s.setReg rd t.n).setPrime true).complete
    | .verdict false => s.runJob (.makeprime rd w k none)
    | _ => (s.setRng (testEvent t s.rng).2).runJob (.makeprime rd w k (some (testEvent t s.rng).1))

/-- One event of a primality test (rule R162): a step, or the completion. -/
def primalityEvent (t : PrimeTest) (s : State) : State :=
  match t.stage with
  | .verdict v => (s.writeVerdict v).complete
  | _ => (s.setRng (testEvent t s.rng).2).runJob (.isprime (testEvent t s.rng).1)

/-- One event of the command in flight: an iteration, or its completion (rules R207, R208), as the command's rule gives
them. -/
def jobEvent (job : Job) (s : State) : State :=
  match job with
  | .nop => s.complete
  | .modmul rd a b m => (s.setReg rd (mulmod a b m)).complete
  | .modexp rd w => if w.x = 0 then (s.setReg rd w.acc).complete else s.runJob (.modexp rd (expStep w))
  | .gcd rd w => if w.b = 0 then (s.setReg rd w.a).complete else s.runJob (.gcd rd (gcdStep w))
  | .modinv rd w =>
    if w.r1 = 0 then ((s.setReg rd (invResult w)).setNoinv (noInverse w.r)).complete
    else s.runJob (.modinv rd (invStep w))
  | .isprime t => primalityEvent t s
  | .makeprime rd w k search => searchEvent rd w k search s
  | .seed value => (s.setRng (some (Config.rngSeed value))).complete
  | .rngclr => (s.setRng none).complete
  | .rndbits rd n =>
    match s.rng with
    | some st => ((s.setRng (some (drawBits st n).1)).setReg rd (drawBits st n).2).complete
    | none => s
  | .rnduni rd b =>
    match s.rng with
    | some st => ((s.setRng (some (drawUniform st b).1)).setReg rd (drawUniform st b).2).complete
    | none => s

/-- One engine event (rule R39): in phase `RUN` the command in flight moves; else "the block starts nothing on its own"
(rule R281). -/
def engineEvent (s : State) : State :=
  match s.phase with
  | .run job => jobEvent job s
  | .idle => s
  | .fault _ => s

/-- `k` engine events, one after another (rule R207). -/
def runEngine : Nat → State → State
  | 0, s => s
  | k + 1, s => runEngine k (engineEvent s)

/-- The engine events that fall before the next access (log entry 4). -/
def afterTurns (s : State) : State := runEngine s.turns s

/-- Issue of a decoded command (rule R205): when a fault condition holds, the fault entry "and nothing else"; otherwise the
sources are latched, the working values initialised, `BUSY` set, and the engine events that fall before the next access
follow (rule R207). -/
def issue (fault : Option FaultCode) (job : Job) (s : State) : Result :=
  match fault with
  | some code => .next (s.raiseFault code)
  | none => .next (afterTurns (s.runJob job))

end Sys2Proof.Machine
end

