-- ==== Sys2Proof/Machine/Control.lean ====
section
/-! DEFINITION. The meaning of `NOP` (45_control.md). -/

namespace Sys2Proof.Machine

/-- `NOP` (rule R210): "`DONE` is cleared at issue and set at completion like for every command; nothing else changes.
Faults: none." -/
def execNop (s : State) : Result := issue none .nop s

end Sys2Proof.Machine
end

