-- ==== Sys2Proof/Machine/Euclid.lean ====
section
/-! DEFINITION. The meanings of `GCD` and `MODINV` (42_xgcd.md). -/

namespace Sys2Proof.Machine

/-- `GCD Rd, Ra, Rb` (rules R137, R138): "Faults: none; every operand pair is legal". -/
def execGcd (rd ra rb : Reg) (s : State) : Result :=
  issue none (.gcd rd (gcdStart (s.sourceOperand ra) (s.sourceOperand rb))) s

/-- `MODINV Rd, Ra, Rm` (rules R141, R142): the inverse of `R[RA]` modulo `R[RM]`, or 0 and `NOINV`; `ZERO_MODULUS` when
`R[RM] = 0`. -/
def execModinv (rd ra rm : Reg) (s : State) : Result :=
  issue (firstFault [(s.zeroModulus rm, .zeroModulus)])
    (.modinv rd (invStart (s.sourceOperand ra) (s.sourceOperand rm))) s

end Sys2Proof.Machine
end

