-- ==== Sys2Proof/Machine/Modular.lean ====
section
/-! DEFINITION. The meanings of `MODMUL` (40_modmul.md) and `MODEXP` (41_modexp.md). -/

namespace Sys2Proof.Machine

/-- `MODMUL Rd, Ra, Rb, Rm` (rule R111): `R[RD] <- (a * b) mod m`; `ZERO_MODULUS` when `R[RM] = 0`. -/
def execModmul (rd ra rb rm : Reg) (s : State) : Result :=
  issue (firstFault [(s.zeroModulus rm, .zeroModulus)])
    (.modmul rd (s.sourceOperand ra) (s.sourceOperand rb) (s.sourceOperand rm)) s

/-- `MODEXP Rd, Ra, Rb, Rm` (rules R121, R123): base `R[RA]`, exponent `R[RB]`, modulus `R[RM]`; `ZERO_MODULUS` when
`R[RM] = 0`. -/
def execModexp (rd ra rb rm : Reg) (s : State) : Result :=
  issue (firstFault [(s.zeroModulus rm, .zeroModulus)])
    (.modexp rd (expStart (s.sourceOperand ra) (s.sourceOperand rb) (s.sourceOperand rm))) s

end Sys2Proof.Machine
end

