-- ==== Sys2Proof/Machine/Primality.lean ====
section
/-! DEFINITION. The meanings of `ISPRIME` and `MAKEPRIME` (43_primality.md). -/

namespace Sys2Proof.Machine

/-- `ISPRIME` will draw: `n >= 5` and `ITER >= 1` (rules R160, R251). -/
def testDraws (n k : Nat) : Bool := decide (5 ≤ n ∧ 1 ≤ k)

/-- `ISPRIME Ra` (rules R160, R162): `n = R[RA]`, `iterations = ITER`, the verdict to `PRIME`; `RNG_UNINIT` when the command
would draw and the random source is not initialised. -/
def execIsprime (ra : Reg) (s : State) : Result :=
  issue (firstFault [(testDraws (s.sourceOperand ra) s.iterOperand && s.rngUninit, .rngUninit)])
    (.isprime (testStart (s.sourceOperand ra) s.iterOperand)) s

/-- `MAKEPRIME Rd` (rules R171, R173): `bitWidth = BITS`, `iterations = ITER`; `RNG_UNINIT` when the random source is not
initialised, else `RANGE` when `BITS > W`. -/
def execMakeprime (rd : Reg) (s : State) : Result :=
  issue (firstFault [(s.rngUninit, .rngUninit), (s.bitsOutOfRange, .range)])
    (.makeprime rd s.bitsOperand s.iterOperand none) s

end Sys2Proof.Machine
end

