-- ==== Sys2Proof/Machine/Random.lean ====
section
/-! DEFINITION. The meanings of `SEED`, `RNGCLR`, `RNDBITS` and `RNDUNI` (44_random.md). -/

namespace Sys2Proof.Machine

/-- `SEED Ra` (rule R189): `rng_state <- rng_seed(R[RA]); rng_valid <- 1`; `RNG_REINIT` when the source is already
initialised. -/
def execSeed (ra : Reg) (s : State) : Result :=
  issue (firstFault [(s.rngValid, .rngReinit)]) (.seed (s.sourceOperand ra)) s

/-- `RNGCLR` (rule R192): `rng_valid <- 0`; `RNG_UNINIT` when the source is not initialised. -/
def execRngclr (s : State) : Result :=
  issue (firstFault [(s.rngUninit, .rngUninit)]) .rngclr s

/-- `RNDBITS Rd` (rule R190): `R[RD] <- draw_bits(BITS)`; `RNG_UNINIT`, else `RANGE` when `BITS > W`. -/
def execRndbits (rd : Reg) (s : State) : Result :=
  issue (firstFault [(s.rngUninit, .rngUninit), (s.bitsOutOfRange, .range)]) (.rndbits rd s.bitsOperand) s

/-- `RNDUNI Rd, Ra` (rule R191): `R[RD] <- draw_uniform(R[RA])`; `RNG_UNINIT`, else `RANGE` when the bound is 0. -/
def execRnduni (rd ra : Reg) (s : State) : Result :=
  issue (firstFault [(s.rngUninit, .rngUninit), (s.sourceOperand ra == 0, .range)])
    (.rnduni rd (s.sourceOperand ra)) s

end Sys2Proof.Machine
end

