-- ==== Sys2Proof/Machine/Dispatch.lean ====
section
/-! DEFINITION. One arm per command: its meaning. -/

namespace Sys2Proof.Machine

/-- The meaning of a decoded command, from the state of its accepted `CMD` write (rule R205) on: the fault entry, or its
latches and the engine events that fall before the next access. -/
def exec (i : Instr) (s : State) : Host.Outcome State Fault Refusal :=
  match i with
  | .nop => Sys2Proof.Machine.execNop s
  | .modmul rd ra rb rm => Sys2Proof.Machine.execModmul rd ra rb rm s
  | .modexp rd ra rb rm => Sys2Proof.Machine.execModexp rd ra rb rm s
  | .gcd rd ra rb => Sys2Proof.Machine.execGcd rd ra rb s
  | .modinv rd ra rm => Sys2Proof.Machine.execModinv rd ra rm s
  | .isprime ra => Sys2Proof.Machine.execIsprime ra s
  | .makeprime rd => Sys2Proof.Machine.execMakeprime rd s
  | .seed ra => Sys2Proof.Machine.execSeed ra s
  | .rngclr => Sys2Proof.Machine.execRngclr s
  | .rndbits rd => Sys2Proof.Machine.execRndbits rd s
  | .rnduni rd ra => Sys2Proof.Machine.execRnduni rd ra s

end Sys2Proof.Machine
end

