-- ==== Sys2Proof/Machine/Window.lean ====
section
/-! DEFINITION. The register window (20_memory.md) and the host's port: what an offset names, reads, writes, the drop
rule, the issue of a command by a `CMD` write, and one event from outside. -/

namespace Sys2Proof.Machine

/-- What a 32-bit access names (rules R51, R52, R59). -/
inductive Place where
  | cmd | status | iter | bits | param | reserved
  | limbOf (i : Reg) (j : Nat)
  /-- Not an access the block accepts (rule R59). -/
  | refused
  deriving DecidableEq, Repr

/-- The control registers and the reserved offsets, below `0x1000` (rule R51). -/
def controlPlace (addr : Nat) : Place :=
  if addr = 0x000 then .cmd
  else if addr = 0x004 then .status
  else if addr = 0x008 then .iter
  else if addr = 0x00C then .bits
  else if addr = 0x010 then .param
  else .reserved

/-- "Limb `j` of register `R[i]` is the 32-bit word at offset `0x1000 + i*(W/8) + 4*j`" (rule R52), read backwards from the
distance `off` to `0x1000`. -/
def limbPlace (W off : Nat) : Place := .limbOf (Fin.ofNat 8 (off / (W / 8))) (off % (W / 8) / 4)

/-- What an access of `size` bytes at offset `addr` names: only an aligned 32-bit access below `0x1000 + W` is accepted
(rule R59). -/
def place (W addr size : Nat) : Place :=
  if size ≠ 4 ∨ addr % 4 ≠ 0 then .refused
  else if addr < 0x1000 then controlPlace addr
  else if addr < 0x1000 + W then limbPlace W (addr - 0x1000)
  else .refused

/-- Offset of limb `j` of `R[i]` (rule R52). -/
def limbOffset (W : Nat) (i : Reg) (j : Nat) : Nat := 0x1000 + i.val * (W / 8) + 4 * j

/-- The word of the window at a place (rule R53); none where the access is refused. -/
def State.wordAt (s : State) : Place → Option Word
  | .cmd => some s.cmd
  | .status => some s.statusWord
  | .iter => some s.iter
  | .bits => some s.bits
  | .param => some s.param
  | .reserved => some 0
  | .limbOf i j => some (limb (s.reg i) j)
  | .refused => none

/-- `MemRead(addr, size)` as a function of the state: the data, or none for a bus error (rules R53, R59). -/
def State.memRead (s : State) (addr size : Nat) : Option Word := s.wordAt (place s.W addr size)

/-- A read: it is answered, and "No read has a side effect" (rule R53); allowed in every phase. -/
def State.busRead (s : State) (addr size : Nat) : State :=
  match s.memRead addr size with
  | some v => s.respond (.data v)
  | none => s.respond .busError

/-- A write that is stored unless `BUSY` is 1 (rule R58, first sentence). -/
def State.storeUnlessBusy (s : State) (stored : State) : State :=
  if s.busy then s.dropWrite else stored.respond .ack

/-- A write at any place but `CMD` (rules R54, R58, R59). -/
def State.busWrite (s : State) (p : Place) (v : Word) : State :=
  match p with
  | .cmd => s
  | .status => (s.writeStatus v).respond .ack
  | .iter => s.storeUnlessBusy (s.setIter v)
  | .bits => s.storeUnlessBusy (s.setBits v)
  | .param => s.respond .ack
  | .reserved => s.respond .ack
  | .limbOf i j => s.storeUnlessBusy (s.setReg i (setLimb (s.reg i) j v))
  | .refused => s.respond .busError

/-- A write to `CMD` (rules R205, R206): accepted in phase `IDLE`, where the word is decoded and the command issued, or
`ILLEGAL_CMD` raised (rule R96); dropped in the other phases. -/
def commandWrite (v : Word) (s : State) : Result :=
  match s.phase with
  | .idle =>
    match decode v with
    | .ok i => exec i (s.accept v)
    | .error _ => .next ((s.accept v).raiseFault .illegalCmd)
  | .run _ => .next (afterTurns s.dropWrite)
  | .fault _ => .next (afterTurns s.dropWrite)

/-- One access from outside, then the engine events that fall before the next one (rules R62, R207). -/
def access (a : Access) (s : State) : Result :=
  match a with
  | .reset => .next s.hardReset
  | .read addr size => .next (afterTurns (s.busRead addr size))
  | .write addr size v =>
    match place s.W addr size with
    | .cmd => commandWrite v s
    | p => .next (afterTurns (s.busWrite p v))

/-- One step of host and engine (rule R41): the oldest access still to come, with the engine events that follow it; or,
when none is to come, one engine event. -/
def hostStep (s : State) : Result :=
  match s.host with
  | [] => .next (engineEvent s)
  | e :: rest => access e.access ((s.setHost rest).grant e.turns)

/-- `s` about to receive the word `w` at `CMD`, in the phase that accepts it, with one engine event after it: from reset
that completes every command that does not fault (log entry 14). -/
def State.placeCommand (s : State) (w : Word) : State :=
  (s.setPhase .idle).setHost ({ access := .write 0x000 4 w, turns := 1 } :: s.host)

end Sys2Proof.Machine
end

