-- ==== Sys2Proof/Machine/Step.lean ====
section
/-! DEFINITION. The step of the machine, and the host's placing of one command where the next step takes it. -/

namespace Sys2Proof.Machine

/-- One step: `hostStep` of `Machine/Window.lean`. -/
def step (s : State) : Host.Outcome State Fault Refusal := hostStep s

/-- `s` with the command word `w` as the very next access, a write to `CMD` (the block has no program counter and fetches
nothing, rule R24; log entry 14). -/
def State.withFetchWord (s : State) (_nbits w : Nat) : State := s.placeCommand (BitVec.ofNat 32 w)

end Sys2Proof.Machine
end

