-- ==== Sys2Proof/Machine/HostProgram.lean ====
section
/-! DEFINITION. Host programs (rules R55, R98): each line as events from outside, the polling loop of a command line (rule
R214), and what a host reads back. The polling host chooses each access by the last answer, so it performs its accesses
one at a time, and how many engine events follow each is an argument (rule R207; log entry 4). -/

namespace Sys2Proof.Machine

/-- A 32-bit write with no engine event after it. -/
def writeEvent (addr : Nat) (v : Word) : HostStep := { access := .write addr 4 v, turns := 0 }

/-- A 32-bit read with no engine event after it. -/
def readEvent (addr : Nat) : HostStep := { access := .read addr 4, turns := 0 }

/-- `LOAD Ri, value`: the writes of all `W/32` limbs of `value`, low limb first (rules R55, R98). The rules speak of
W-bit values, and a value of `2^W` or more is not representable (V20): the line then writes its low `W` bits (DESIGN CHOICE,
log entry 33). -/
def lineLoad (W : Nat) (i : Reg) (value : Nat) : List HostStep :=
  (List.range (W / 32)).map fun j => writeEvent (limbOffset W i j) (limb value j)

/-- `READ Ri`: the reads of all limbs (rules R55, R98). -/
def lineRead (W : Nat) (i : Reg) : List HostStep :=
  (List.range (W / 32)).map fun j => readEvent (limbOffset W i j)

/-- `SET ITER, v` (rule R98). -/
def lineSetIter (v : Word) : List HostStep := [writeEvent 0x008 v]

/-- `SET BITS, v` (rule R98). -/
def lineSetBits (v : Word) : List HostStep := [writeEvent 0x00C v]

/-- `ACK`: `0x46` to `STATUS`, "clearing `DONE`, `ERR`, `DROP`" (rule R98). -/
def lineAck : List HostStep := [writeEvent 0x004 0x46]

/-- The host's next access is `e`: the state after that step. Every step answers `next` (`Fault` is empty, and no arm is
refused), so the other two answers do not arise. -/
def State.perform (s : State) (e : HostStep) : State :=
  match step (s.setHost (e :: s.host)) with
  | .next t => t
  | .fault _ => s
  | .refused _ => s

/-- The accesses of a line, one after another. -/
def State.performAll (s : State) (es : List HostStep) : State := es.foldl State.perform s

/-- The data of the last answer, if it carried data. -/
def State.lastData (s : State) : Option Word :=
  match s.resp with
  | some (.data v) => some v
  | _ => none

/-- What a host knows of a command once it has read `BUSY = 0` (rule R214). -/
inductive CommandOutcome where
  /-- "the results are in place". -/
  | completed
  /-- "the command faulted with code `s[15:8]`". -/
  | faulted (code : Nat)
  /-- "the `CMD` write was dropped": "the command never ran". -/
  | neverRan
  deriving DecidableEq, Repr

/-- The reading of a last `STATUS` word `s` (rule R214): `s[6] == 1` and another word in `CMD`, the command never ran; else
`s[2] == 1`, it faulted with code `s[15:8]`; "else `s[1] == 1` and the results are in place". DEDUCED, safe (log entry 32):
the dropped write comes first, since a command that never ran neither faulted nor completed. -/
def readOutcome (word status cmd : Word) : CommandOutcome :=
  if status.getLsbD 6 = true ∧ cmd ≠ word then .neverRan
  else if status.getLsbD 2 then .faulted (bitField 8 8 status)
  else .completed

/-- "repeat `s <- MemRead(0x004, 4)` until `s[0] == 0`" (rule R214): the last word read, and the state then. `polls` gives
the engine events after each read; none when it ends while the command is still `BUSY`. -/
def pollStatus : (polls : List Nat) → State → Option (Word × State)
  | [], _ => none
  | n :: rest, s =>
    let t := s.perform { access := .read 0x004 4, turns := n }
    match t.lastData with
    | some status => if status.getLsbD 0 then pollStatus rest t else some (status, t)
    | none => none

/-- After the loop (rule R214): `CMD` is read back when `DROP` is set, and the outcome is told. -/
def tellOutcome (word status : Word) (s : State) : CommandOutcome × State :=
  if status.getLsbD 6 then
    let t := s.perform (readEvent 0x000)
    (readOutcome word status (t.lastData.getD 0), t)
  else (readOutcome word status word, s)

/-- A command line (rules R98, R214): `MemWrite(0x000, 4, word)`, after which `n` engine events fall, the polling loop, and
the outcome; none while the command is still `BUSY` after all of `polls`. -/
def lineCommand (word : Word) (n : Nat) (polls : List Nat) (s : State) : Option (CommandOutcome × State) :=
  match pollStatus polls (s.perform { access := .write 0x000 4 word, turns := n }) with
  | some (status, t) => some (tellOutcome word status t)
  | none => none

/-- "A host program ... is a list of lines" (rule R98). -/
inductive HostLine where
  | command (i : Instr)
  | load (i : Reg) (value : Nat)
  | setIter (v : Word)
  | setBits (v : Word)
  | read (i : Reg)
  | ack
  deriving DecidableEq, Repr

/-- How many engine events fall after a command line's write, and after each of its polls (rule R207). -/
structure LineTiming where
  afterWrite : Nat
  polls : List Nat
  deriving DecidableEq, Repr

/-- One line (rule R98); only a command line polls, and none is its command still running. -/
def runLine (line : HostLine) (timing : LineTiming) (s : State) : Option State :=
  match line with
  | .command i => (lineCommand (encode i) timing.afterWrite timing.polls s).map Prod.snd
  | .load i value => some (s.performAll (lineLoad s.W i value))
  | .setIter v => some (s.performAll (lineSetIter v))
  | .setBits v => some (s.performAll (lineSetBits v))
  | .read i => some (s.performAll (lineRead s.W i))
  | .ack => some (s.performAll lineAck)

/-- A host program, line by line: each line starts when the one before it has ended. -/
def runProgram : List (HostLine × LineTiming) → State → Option State
  | [], s => some s
  | (line, timing) :: rest, s => (runLine line timing s).bind (runProgram rest)

/-- The value of `R[i]` as a host reads it back through the window, limb by limb (rule R55); limbs count from 0, the least
significant (rule R57). -/
def State.readBack (s : State) (i : Reg) : Nat :=
  ((List.range (s.W / 32)).map fun j =>
    ((s.memRead (limbOffset s.W i j) 4).getD 0).toNat * 2 ^ (32 * j)).sum

end Sys2Proof.Machine
end

