-- ==== Sys2Proof/Safety.lean ====
section
/-! DEFINITION. The terms claims are made in: the invariant of every step (with the loop invariants of rules R124, R138,
R142, R163), what a command ends in, and the big-step references of the tester and the prime search (rules R160, R165,
R171, R209). -/

namespace Sys2Proof.Machine

/-- The exponentiation loop's invariant (rule R124): `acc * p^x ≡ b0^e (mod m)`, `x <= e`; and `acc < max(m, 2)` (rule
R123). -/
def ExpWork.Ok (w : ExpWork) : Prop :=
  0 < w.m ∧ w.x ≤ w.e ∧ w.acc < max w.m 2 ∧ w.acc * w.p ^ w.x % w.m = w.b0 ^ w.e % w.m

/-- Euclid's loop (rule R138): "the set of common divisors of `(a, b)` never changes"; both values fit a register. -/
def GcdWork.Ok (W : Nat) (w : GcdWork) : Prop :=
  w.a < 2 ^ W ∧ w.b < 2 ^ W ∧ Nat.gcd w.a w.b = Nat.gcd w.a0 w.b0

/-- The extended loop's invariants (rule R142): `a * t ≡ r (mod n)`, `a * t1 ≡ r1 (mod n)`, `gcd(r, r1) = gcd(a, n)`, and
`r`, `r1` at most `max(a, n)`. -/
def InvWork.Ok (W : Nat) (w : InvWork) : Prop :=
  0 < w.n ∧ w.n < 2 ^ W ∧ w.r ≤ max w.a0 w.n ∧ w.r1 ≤ max w.a0 w.n
    ∧ Nat.gcd w.r w.r1 = Nat.gcd w.a0 w.n
    ∧ ((w.a0 : Int) * w.t - w.r) % w.n = 0 ∧ ((w.a0 : Int) * w.t1 - w.r1) % w.n = 0

/-- A test that has no verdict yet: `n >= 5`, a round between 1 and `k`, and the decomposition of rule R163. -/
def PrimeTest.RoundOk (t : PrimeTest) : Prop :=
  5 ≤ t.n ∧ 1 ≤ t.i ∧ t.i ≤ t.k ∧ t.n - 1 = 2 ^ t.s * t.r ∧ t.r % 2 = 1

/-- A witness, `a` in `[2, n-2]` (rule R160). -/
def PrimeTest.WitnessOk (t : PrimeTest) (a : Nat) : Prop := 2 ≤ a ∧ a + 2 ≤ t.n

/-- A test in flight (rules R160, R162, R165): while it has no verdict the random source is valid (rule R254), the inner
`powMod` runs with `b0 = a`, `e = r`, `m = n`, and in the squaring loop `y` is `y_(j-1) = a^(r * 2^(j-1)) mod n`. -/
def PrimeTest.Ok (t : PrimeTest) (rng : Option Source) : Prop :=
  match t.stage with
  | .verdict _ => True
  | .draw => t.RoundOk ∧ rng.isSome = true
  | .pow w =>
    t.RoundOk ∧ rng.isSome = true ∧ t.WitnessOk w.b0 ∧ w.e = t.r ∧ w.m = t.n ∧ w.Ok
  | .square a y j =>
    t.RoundOk ∧ rng.isSome = true ∧ t.WitnessOk a ∧ 1 ≤ j ∧ y = a ^ (t.r * 2 ^ (j - 1)) % t.n

/-- A command in flight was issued without a fault (rule R254): its modulus is not 0, its draws have a source and a range,
its values fit the registers (rule R16), and its loop's invariant holds. -/
def Job.Ok (W : Nat) (rng : Option Source) : Job → Prop
  | .nop => True
  | .modmul _ a b m => 0 < m ∧ a < 2 ^ W ∧ b < 2 ^ W ∧ m < 2 ^ W
  | .modexp _ w => w.m < 2 ^ W ∧ w.Ok
  | .gcd _ w => w.Ok W
  | .modinv _ w => w.Ok W
  | .isprime t => t.n < 2 ^ W ∧ t.Ok rng
  | .makeprime _ w _ none => w ≤ W ∧ rng.isSome = true
  | .makeprime _ w k (some t) =>
    w ≤ W ∧ rng.isSome = true ∧ t.k = k ∧ (t.n < 2 ^ w ∨ w = 1 ∧ t.n ≤ 2) ∧ t.Ok rng
  | .seed value => value < 2 ^ W ∧ rng = none
  | .rngclr => rng.isSome = true
  | .rndbits _ n => n ≤ W ∧ rng.isSome = true
  | .rnduni _ b => 0 < b ∧ b < 2 ^ W ∧ rng.isSome = true

/-- The invariant of every step: a legal width in `PARAM` (rules R8, R36), every big register in `[0, 2^W)` (rule R21), and a
command in flight that issue admitted. -/
def State.Inv (s : State) : Prop :=
  legalW s.W ∧ (∀ i : Reg, s.reg i < 2 ^ s.W) ∧ ∀ job, s.phase = .run job → job.Ok s.W s.rng

/-- Given enough engine events before the next access, `exec i s` answers the completed state `t`: the command ends (rules
R207, R208), and the events that are left change nothing. `grant` sets the model's own `turns` alone. -/
def EndsIn (i : Instr) (s t : State) : Prop :=
  ∃ N, ∀ n, N ≤ n → exec i (s.grant n) = .next (t.grant n)

/-- `exec i s` answers the completed state `t` as soon as `k` engine events fall before the next access, and with fewer the
command is still in flight. -/
def EndsAfter (k : Nat) (i : Instr) (s t : State) : Prop :=
  (∀ n, k ≤ n → exec i (s.grant n) = .next (t.grant n))
    ∧ ∀ n, n < k → ∃ u, exec i (s.grant n) = .next u ∧ u.busy = true

/-- However many engine events fall before the next access, `exec i s` answers a state in which the command is still in
flight: a hang (rule R175). -/
def NeverEnds (i : Instr) (s : State) : Prop :=
  ∀ n, ∃ u, exec i (s.grant n) = .next u ∧ u.busy = true

/-- `exec i s` answers the fault entry with `code` (rule R253). -/
def FaultsWith (code : FaultCode) (i : Instr) (s : State) : Prop := exec i s = .next (s.raiseFault code)

/-- One round as a function (rule R165): with `n - 1 = 2^s * r`, `r` odd, and `y_j = a^(r * 2^j) mod n`, the round passes
iff `y_0 = 1`, or `y_0 = n - 1`, or `y_j = n - 1` for some `1 <= j <= s - 1`. -/
def RoundPasses (n a : Nat) : Prop :=
  ∃ s r, n - 1 = 2 ^ s * r ∧ r % 2 = 1
    ∧ (a ^ r % n = 1 ∨ a ^ r % n = n - 1 ∨ ∃ j, 1 ≤ j ∧ j + 1 ≤ s ∧ a ^ (r * 2 ^ j) % n = n - 1)

/-- `k` rounds on `n` from the source `st` (rules R160, R165, R166): one draw at the start of each round; the verdict and
the source after the draws. The first round that does not pass ends the test. -/
def RoundsGive (n : Nat) : (k : Nat) → (st : Source) → (prime : Bool) → (st' : Source) → Prop
  | 0, st, prime, st' => prime = true ∧ st' = st
  | k + 1, st, prime, st' =>
    (RoundPasses n (2 + (drawUniform st (n - 3)).2) ∧ RoundsGive n k (drawUniform st (n - 3)).1 prime st')
      ∨ (¬RoundPasses n (2 + (drawUniform st (n - 3)).2) ∧ prime = false ∧ st' = (drawUniform st (n - 3)).1)

/-- `isPrime(n, k)` from the source `rng` (rule R160): the fast path and `k = 0` draw nothing. -/
def TestGives (n k : Nat) (rng : Option Source) (prime : Bool) (rng' : Option Source) : Prop :=
  ((n = 0 ∨ n = 1 ∨ n = 4) ∧ prime = false ∧ rng' = rng)
    ∨ ((n = 2 ∨ n = 3) ∧ prime = true ∧ rng' = rng)
    ∨ (5 ≤ n ∧ k = 0 ∧ prime = true ∧ rng' = rng)
    ∨ (5 ≤ n ∧ 1 ≤ k ∧ ∃ st st', rng = some st ∧ rng' = some st' ∧ RoundsGive n k st prime st')

/-- `makePrime(w, k)` from the source `st` ends with the candidate `c` and the source `st'` (rule R171): attempt by attempt,
a candidate's draw and then its test's draws (rule R176). There is no cap: where no derivation exists the search does
not end (rule R175). -/
inductive SearchGives (w k : Nat) : Source → Nat → Source → Prop where
  | accepted (st st' : Source)
      (verdict : TestGives (candidate w (drawBits st w).2) k (some (drawBits st w).1) true (some st')) :
      SearchGives w k st (candidate w (drawBits st w).2) st'
  | rejected (st st1 st' : Source) (c : Nat)
      (verdict : TestGives (candidate w (drawBits st w).2) k (some (drawBits st w).1) false (some st1))
      (rest : SearchGives w k st1 c st') :
      SearchGives w k st c st'

end Sys2Proof.Machine
end

