-- ==== Sys2Proof/Certificates/Slice0/Obligations.lean ====
section
/-! DEFINITION. The statements for the provers. Each docstring names the rule of the spec it formalises. `runEngine n` in
a statement about a step is the `n` engine events that fall between the access and the next one (rule R207, log entry 4).
-/

open Sys2Proof Sys2Proof.Machine

/-! Encoding (30_encoding.md). -/

/-- Rule R97: the worked encodings, and the four illegal words, the last two for a non-zero unused field. -/
def Obligations.WorkedEncodingsDecode : Prop :=
  decode 0x00044302 = .ok (.modexp 3 0 1 2) ∧ decode 0x00052401 = .ok (.modmul 4 4 4 2)
    ∧ decode 0x00004203 = .ok (.gcd 2 0 1) ∧ decode 0x00080D04 = .ok (.modinv 5 1 4)
    ∧ decode 0x00003005 = .ok (.isprime 6) ∧ decode 0x00000706 = .ok (.makeprime 7)
    ∧ decode 0x00000008 = .ok (.seed 0) ∧ decode 0x00000009 = .ok .rngclr
    ∧ decode 0x0000010A = .ok (.rndbits 1) ∧ decode 0x00001A0B = .ok (.rnduni 2 3)
    ∧ decode 0x00000000 = .ok .nop
    ∧ decode 0x00000007 = .error .unassignedOpcode ∧ decode 0x00100001 = .error .reservedBits
    ∧ decode 0x00020003 = .error .unusedField ∧ decode 0x00000100 = .error .unusedField

/-- Rules R81, R84, R86: decoding the word of any command, at every value of every field, gives the command back. -/
def Obligations.DecodeOfEncode : Prop := ∀ i : Instr, decode (encode i) = .ok i

/-- Rules R83, R84, R86: each legal word has one meaning, so no bit of it is dropped. -/
def Obligations.EncodeOfDecode : Prop := ∀ (w : Word) (i : Instr), decode w = .ok i → encode i = w

/-- Rules R83, R96 against the masks of R84: the words the decoder accepts are exactly those with an assigned opcode, bits
31:20 zero and every unused field zero. -/
def Obligations.DecoderAcceptsExactlyLegalWords : Prop :=
  ∀ w : Word, (∃ i, decode w = .ok i) ↔ wordWellFormed w = true

/-- Rules R84, R86: at most one row matches a word. -/
def Obligations.RowsAreDisjoint : Prop :=
  ∀ (w : Word) (a b : Row), a.selects w = true → b.selects w = true → a = b

/-! Reset (10_state.md R42, 70_reset_and_hazards.md). -/

/-- Rules R8, R23, R36, R42: every register, flag and control word 0, `PARAM = W`, no valid source, phase `IDLE`; for every
legal width, and for the machine's own, which is legal. The open width in `PARAM` is log entry 1 (DESIGN CHOICE), and
`W < 2^32` in `legalW` is log entry 2 (DEDUCED from rule R36). -/
def Obligations.ResetValues : Prop :=
  State.reset = State.resetFor Config.W ∧ legalW Config.W
    ∧ ∀ W, legalW W →
        (∀ i, (State.resetFor W).reg i = 0) ∧ (State.resetFor W).cmd = 0 ∧ (State.resetFor W).statusWord = 0
          ∧ (State.resetFor W).iter = 0 ∧ (State.resetFor W).bits = 0 ∧ (State.resetFor W).param.toNat = W
          ∧ (State.resetFor W).rngValid = false ∧ (State.resetFor W).phase = .idle

/-- Rule R280: the reset input, in any phase, leaves the reset state of the same width; a command in flight is gone. What
is still to come from outside stays (the model's own records, log entry 13). -/
def Obligations.ResetInputAbandonsEverything : Prop :=
  ∀ (s : State) (n : Nat) (rest : List HostStep), s.host = { access := .reset, turns := n } :: rest →
    step s = .next (((State.resetFor s.W).setHost rest).grant n)

/-! The step (rules R41, R205, R206, R281). -/

/-- Rules R62, R205: a `CMD` write in phase `IDLE` whose word decodes to `i` is `exec` of `i` at the state of the acceptance:
the access taken from the script, `CMD` the word, `DONE` 0. -/
def Obligations.StepRunsDecodedCommand : Prop :=
  ∀ (s : State) (w : Word) (i : Instr) (n : Nat) (rest : List HostStep),
    s.host = { access := .write 0x000 4 w, turns := n } :: rest → s.phase = .idle → decode w = .ok i →
      step s = exec i (((s.setHost rest).grant n).accept w)
        ∧ (((s.setHost rest).grant n).accept w).cmd = w ∧ (((s.setHost rest).grant n).accept w).done = false

/-- Rule R96: an illegal word, when its `CMD` write is accepted, raises `ILLEGAL_CMD` and does nothing else. -/
def Obligations.IllegalCommandFaults : Prop :=
  ∀ (s : State) (w : Word) (r : Reject) (n : Nat) (rest : List HostStep),
    s.host = { access := .write 0x000 4 w, turns := n } :: rest → s.phase = .idle → decode w = .error r →
      step s = .next ((((s.setHost rest).grant n).accept w).raiseFault .illegalCmd)

/-- Rule R206: a `CMD` write while `BUSY` or `ERR` is dropped: `DROP` is set, and `CMD`, the engine and the other flags are as
they were (state `t`); then the engine events that fall before the next access. The script and those events are log entry 4
(DESIGN CHOICE; rules R62, R207). -/
def Obligations.CommandWriteIsDroppedUnlessIdle : Prop :=
  ∀ (s : State) (w : Word) (n : Nat) (rest : List HostStep),
    s.host = { access := .write 0x000 4 w, turns := n } :: rest → (s.busy = true ∨ s.err = true) →
      ∃ t, step s = .next (runEngine n t) ∧ t.drop = true ∧ t.cmd = s.cmd ∧ t.phase = s.phase
        ∧ t.done = s.done ∧ t.prime = s.prime ∧ t.noinv = s.noinv ∧ t.rng = s.rng ∧ t.regs = s.regs
        ∧ t.iter = s.iter ∧ t.bits = s.bits ∧ t.param = s.param ∧ t.host = rest

/-- Rules R250, R252: nothing stops the block: from every state a step answers a next state. That an access which the block
does not accept has a step is the model's choice (rule R59 also allows none; log entry 12), and so is what a draw without
a valid source does (log entry 11). -/
def Obligations.StepAlwaysAnswersNext : Prop := ∀ s : State, ∃ t, step s = .next t

/-- Rule R281: with no access to come, an idle or faulted block stays as it is. -/
def Obligations.BlockWaitsForHost : Prop :=
  ∀ s : State, s.host = [] → s.busy = false → step s = .next s

/-! The register window (20_memory.md). -/

/-- Rules R51, R52, R53: what a 32-bit read returns, in every phase. -/
def Obligations.WindowReadValues : Prop :=
  ∀ s : State, legalW s.W →
    s.memRead 0x000 4 = some s.cmd ∧ s.memRead 0x004 4 = some s.statusWord ∧ s.memRead 0x008 4 = some s.iter
      ∧ s.memRead 0x00C 4 = some s.bits ∧ s.memRead 0x010 4 = some s.param
      ∧ (∀ addr, addr % 4 = 0 → 0x014 ≤ addr → addr ≤ 0xFFC → s.memRead addr 4 = some 0)
      ∧ ∀ (i : Reg) (j : Nat), j < s.W / 32 →
          s.memRead (limbOffset s.W i j) 4 = some (limb (s.reg i) j)

/-- Rule R53: "No read has a side effect": a read answers and changes nothing of the block. -/
def Obligations.ReadsHaveNoSideEffect : Prop :=
  ∀ (s : State) (addr size n : Nat) (rest : List HostStep),
    s.host = { access := .read addr size, turns := n } :: rest →
      step s = .next (runEngine n (((s.setHost rest).grant n).respond
        (match s.memRead addr size with
          | some v => .data v
          | none => .busError)))

/-- Rule R54: a limb write, unless `BUSY`, replaces that limb and leaves every other word of the window as it was. -/
def Obligations.LimbWriteReplacesOneLimb : Prop :=
  ∀ (s : State) (i : Reg) (j : Nat) (v : Word) (rest : List HostStep),
    legalW s.W → s.busy = false → j < s.W / 32 →
    s.host = { access := .write (limbOffset s.W i j) 4 v, turns := 0 } :: rest →
      ∃ t, step s = .next t ∧ t.memRead (limbOffset s.W i j) 4 = some v
        ∧ (∀ addr size, addr ≠ limbOffset s.W i j → t.memRead addr size = s.memRead addr size)
        ∧ t.phase = s.phase ∧ t.rng = s.rng

/-- Rule R54: `ITER` and `BITS` are replaced unless `BUSY`; `PARAM` and reserved offsets ignore a write. -/
def Obligations.ControlWritesReplaceOrAreIgnored : Prop :=
  ∀ (s : State) (v : Word) (addr n : Nat) (rest : List HostStep),
    s.host = { access := .write addr 4 v, turns := n } :: rest →
      (addr = 0x008 → s.busy = false →
        step s = .next ((((s.setHost rest).grant n).setIter v).respond .ack))
      ∧ (addr = 0x00C → s.busy = false →
        step s = .next ((((s.setHost rest).grant n).setBits v).respond .ack))
      ∧ (addr % 4 = 0 → 0x010 ≤ addr → addr ≤ 0xFFC →
        step s = .next (runEngine n (((s.setHost rest).grant n).respond .ack)))

/-- Rule R58: while `BUSY`, a write to `CMD`, `ITER`, `BITS` or a limb stores nothing, issues nothing and sets `DROP`. -/
def Obligations.BusyWritesAreDropped : Prop :=
  ∀ (s : State) (addr : Nat) (v : Word) (n : Nat) (rest : List HostStep),
    s.busy = true → s.host = { access := .write addr 4 v, turns := n } :: rest →
    (place s.W addr 4 = .cmd ∨ place s.W addr 4 = .iter ∨ place s.W addr 4 = .bits
      ∨ ∃ i j, place s.W addr 4 = .limbOf i j) →
      step s = .next (runEngine n ((((s.setHost rest).grant n).setDrop true).respond .ack))

/-- Rule R286: whatever the host reads or writes while `BUSY`, the command in flight, its latches, the big registers, `CMD`,
`ITER`, `BITS` and the random source are as they were. -/
def Obligations.HostCannotDisturbRunningCommand : Prop :=
  ∀ (s t : State) (a : Access) (rest : List HostStep),
    s.busy = true → a ≠ .reset → s.host = { access := a, turns := 0 } :: rest → step s = .next t →
      t.phase = s.phase ∧ t.regs = s.regs ∧ t.cmd = s.cmd ∧ t.iter = s.iter ∧ t.bits = s.bits
        ∧ t.rng = s.rng ∧ t.prime = s.prime ∧ t.noinv = s.noinv

/-- Rule R59: any other access gets a bus error: "no state of the block changes, no flag is set". That such an access has a
step and that its answer is recorded are the model's choices (log entries 5, 12); the events after it are log entry 4. -/
def Obligations.BusErrorChangesNothing : Prop :=
  ∀ (s : State) (addr size : Nat) (v : Word) (n : Nat) (rest : List HostStep),
    accessWellFormed s.W addr size = false →
      (s.host = { access := .read addr size, turns := n } :: rest →
        step s = .next (runEngine n (((s.setHost rest).grant n).respond .busError)))
      ∧ (s.host = { access := .write addr size v, turns := n } :: rest →
        step s = .next (runEngine n (((s.setHost rest).grant n).respond .busError)))

/-- Rule R55: after the `W/32` limb writes of `LOAD Ri, value` the register holds `value`, and every other register what it
held. -/
def Obligations.LoadSetsWholeRegister : Prop :=
  ∀ (s : State) (i : Reg) (value : Nat) (rest : List HostStep),
    legalW s.W → s.busy = false → s.reg i < 2 ^ s.W → value < 2 ^ s.W →
    s.host = lineLoad s.W i value ++ rest →
      ∃ t, Sys2Proof.core.run (s.W / 32) s = .next t ∧ t.reg i = value
        ∧ (∀ r, r ≠ i → t.reg r = s.reg r) ∧ t.phase = s.phase ∧ t.host = rest

/-- Rule R55: a host that reads all limbs of a register and puts them together has the register's value. -/
def Obligations.ReadBackIsTheRegister : Prop :=
  ∀ (s : State) (i : Reg), legalW s.W → s.reg i < 2 ^ s.W → s.readBack i = s.reg i

/-- Rule R36: `PARAM` is at offset `0x010`, read-only, and its value is `W`: it holds `W` after reset, a read returns it, and
no step, a write to it among them, changes it. -/
def Obligations.ParamNeverChanges : Prop :=
  State.reset.param.toNat = Config.W ∧ (∀ s : State, s.memRead 0x010 4 = some s.param)
    ∧ ∀ s t : State, step s = .next t → t.param = s.param

/-! `STATUS` (10_state.md R26 to R33, R39). -/

/-- Rule R26: the layout of `STATUS`; bit 7 and bits 31:16 read 0. -/
def Obligations.StatusLayout : Prop :=
  ∀ s : State,
    s.statusWord.getLsbD 0 = s.busy ∧ s.statusWord.getLsbD 1 = s.done ∧ s.statusWord.getLsbD 2 = s.err
      ∧ s.statusWord.getLsbD 3 = s.prime ∧ s.statusWord.getLsbD 4 = s.noinv
      ∧ s.statusWord.getLsbD 5 = s.rngValid ∧ s.statusWord.getLsbD 6 = s.drop
      ∧ s.statusWord.getLsbD 7 = false ∧ bitField 8 8 s.statusWord = s.errCode
      ∧ bitField 16 16 s.statusWord = 0 ∧ (s.err = false → s.errCode = 0)

/-- Rules R26, R54, R58, R257: a write to `STATUS`, in every phase, clears `DONE`, `DROP` and, with `ERRCODE`, `ERR` where the
word has a 1, returns from a fault to `IDLE`, and changes nothing else. -/
def Obligations.StatusWriteClearsOnes : Prop :=
  ∀ (s : State) (v : Word) (rest : List HostStep),
    s.host = { access := .write 0x004 4 v, turns := 0 } :: rest →
      ∃ t, step s = .next t
        ∧ t.done = (s.done && !v.getLsbD 1) ∧ t.err = (s.err && !v.getLsbD 2)
        ∧ t.errCode = (if v.getLsbD 2 then 0 else s.errCode) ∧ t.drop = (s.drop && !v.getLsbD 6)
        ∧ (v.getLsbD 2 = true → s.err = true → t.phase = .idle)
        ∧ (v.getLsbD 2 = false ∨ s.err = false → t.phase = s.phase)
        ∧ t.prime = s.prime ∧ t.noinv = s.noinv ∧ t.rng = s.rng ∧ t.regs = s.regs ∧ t.cmd = s.cmd
        ∧ t.iter = s.iter ∧ t.bits = s.bits ∧ t.param = s.param

/-- Rule R29: `ERR` "stays set until the host writes 1 to it or the block is reset". -/
def Obligations.ErrStaysUntilCleared : Prop :=
  ∀ s t : State, s.err = true → step s = .next t →
    (t.err = true ∧ t.errCode = s.errCode)
      ∨ (∃ n rest, s.host = { access := .reset, turns := n } :: rest)
      ∨ ∃ v n rest, s.host = { access := .write 0x004 4 v, turns := n } :: rest ∧ v.getLsbD 2 = true

/-! Faults (60_exceptions.md). -/

/-- Rule R253: the fault entry inside the accepted `CMD` write of `w` sets `ERR` and `ERRCODE`; `BUSY` and `DONE` are 0, `CMD`
holds `w`; and every other piece of state is as it was. -/
def Obligations.FaultEntryChangesNothingElse : Prop :=
  ∀ (s t : State) (w : Word) (c : FaultCode), t = (s.accept w).raiseFault c →
    t.err = true ∧ t.errCode = c.number ∧ t.busy = false ∧ t.done = false ∧ t.cmd = w
      ∧ t.regs = s.regs ∧ t.iter = s.iter ∧ t.bits = s.bits ∧ t.param = s.param ∧ t.prime = s.prime
      ∧ t.noinv = s.noinv ∧ t.rngValid = s.rngValid ∧ t.drop = s.drop ∧ t.rng = s.rng

/-- Rules R251, R255: the codes' numbers, and which command faults with which code; where two conditions hold the lower code
is the one reported. -/
def Obligations.FaultTable : Prop :=
  (FaultCode.illegalCmd.number = 1 ∧ FaultCode.zeroModulus.number = 2 ∧ FaultCode.rngUninit.number = 3
    ∧ FaultCode.rngReinit.number = 4 ∧ FaultCode.range.number = 5)
  ∧ ∀ s : State,
    (∀ rd ra rb rm, s.reg rm = 0 →
      FaultsWith .zeroModulus (.modmul rd ra rb rm) s ∧ FaultsWith .zeroModulus (.modexp rd ra rb rm) s
        ∧ FaultsWith .zeroModulus (.modinv rd ra rm) s)
    ∧ (s.rng = none →
      FaultsWith .rngUninit .rngclr s
        ∧ ∀ rd ra, FaultsWith .rngUninit (.rndbits rd) s ∧ FaultsWith .rngUninit (.rnduni rd ra) s
          ∧ FaultsWith .rngUninit (.makeprime rd) s
          ∧ (5 ≤ s.reg ra → 1 ≤ s.iter.toNat → FaultsWith .rngUninit (.isprime ra) s))
    ∧ (s.rng.isSome = true →
      (∀ ra, FaultsWith .rngReinit (.seed ra) s)
        ∧ ∀ rd ra, (s.W < s.bits.toNat →
            FaultsWith .range (.makeprime rd) s ∧ FaultsWith .range (.rndbits rd) s)
          ∧ (s.reg ra = 0 → FaultsWith .range (.rnduni rd ra) s))

/-- Rules R251, R254: outside the conditions of the table no command faults, at issue or later. -/
def Obligations.NoFaultOutsideTheTable : Prop :=
  ∀ (s t : State) (i : Instr), exec i s = .next t → t.err = true →
    match i with
    | .nop => False
    | .modmul _ _ _ rm => s.reg rm = 0
    | .modexp _ _ _ rm => s.reg rm = 0
    | .gcd _ _ _ => False
    | .modinv _ _ rm => s.reg rm = 0
    | .isprime ra => s.rng = none ∧ 5 ≤ s.reg ra ∧ 1 ≤ s.iter.toNat
    | .makeprime _ => s.rng = none ∨ s.W < s.bits.toNat
    | .seed _ => s.rng.isSome = true
    | .rngclr => s.rng = none
    | .rndbits _ => s.rng = none ∨ s.W < s.bits.toNat
    | .rnduni _ ra => s.rng = none ∨ s.reg ra = 0

/-- Rule R254: "no command faults after its first iteration, after a draw, or after a partial write": no number of engine
events raises a fault. -/
def Obligations.EngineNeverRaisesFault : Prop :=
  ∀ (s : State) (k : Nat), (runEngine k s).err = s.err

/-! The commands (files 40 to 45). `s.setReg`, `s.complete` name what changes; everything else is equal, so each of these
statements is the command's whole frame as well. -/

/-- Rule R210: `NOP` completes after one event: `DONE`, and all else as before. The one event, with `BUSY` before it, is the
model's choice (rule R208; log entry 6). -/
def Obligations.NopCompletes : Prop := ∀ s : State, EndsAfter 1 .nop s s.complete

/-- Rules R111, R112, R113: `MODMUL` completes after one event with `(a * b) mod m`, also where registers coincide and where
operands are not reduced. The one event, with `BUSY` before it, is the model's choice (rule R208; log entry 6). -/
def Obligations.ModmulResult : Prop :=
  ∀ (s : State) (rd ra rb rm : Reg), s.reg rm ≠ 0 →
    EndsAfter 1 (.modmul rd ra rb rm) s ((s.setReg rd (s.reg ra * s.reg rb % s.reg rm)).complete)

/-- Rules R121, R123, R124, R126: `MODEXP` completes after `bitlen(e)` iterations and the completion, with `b0^e mod m` for
`e != 0`, for every `m >= 1`, and with 1 for `e = 0`. The exact count of events, with `BUSY` before the last, is the model's
choice (log entry 6); the value 1 for `m = 1`, `e = 0` is the marked literal reading of rule R126 (log entry 10, unsafe). -/
def Obligations.ModexpResult : Prop :=
  ∀ (s : State) (rd ra rb rm : Reg), s.reg rm ≠ 0 →
    EndsAfter (bitlen (s.reg rb) + 1) (.modexp rd ra rb rm) s
      ((s.setReg rd (if s.reg rb = 0 then 1 else s.reg ra ^ s.reg rb % s.reg rm)).complete)

/-- Rule R137: `GCD` ends with the greatest common divisor of the operands, for every pair. -/
def Obligations.GcdResult : Prop :=
  ∀ (s : State) (rd ra rb : Reg),
    EndsIn (.gcd rd ra rb) s ((s.setReg rd (Nat.gcd (s.reg ra) (s.reg rb))).complete)

/-- Rules R141, R146: `MODINV` ends with the one `t` in `[0, n)` with `(a * t) mod n = 1 mod n` and `NOINV = 0` when
`gcd(a, n) = 1`, and with 0 and `NOINV = 1` otherwise. -/
def Obligations.ModinvResult : Prop :=
  ∀ (s : State) (rd ra rm : Reg), s.reg rm ≠ 0 →
    (Nat.gcd (s.reg ra) (s.reg rm) = 1 →
      ∃ t, t < s.reg rm ∧ s.reg ra * t % s.reg rm = 1 % s.reg rm
        ∧ (∀ u, u < s.reg rm → s.reg ra * u % s.reg rm = 1 % s.reg rm → u = t)
        ∧ EndsIn (.modinv rd ra rm) s (((s.setReg rd t).setNoinv false).complete))
    ∧ (Nat.gcd (s.reg ra) (s.reg rm) ≠ 1 →
      EndsIn (.modinv rd ra rm) s (((s.setReg rd 0).setNoinv true).complete))

/-- Rule R142: "at completion `|t| <= n`, and `|t| < n` when `n >= 2`", after any number of iterations from issue. -/
def Obligations.BezoutCoefficientBounded : Prop :=
  ∀ (a n k : Nat), 1 ≤ n → (invStep^[k] (invStart a n)).r1 = 0 → (∀ j, j < k → (invStep^[j] (invStart a n)).r1 ≠ 0) →
    (invStep^[k] (invStart a n)).t.natAbs ≤ n ∧ (2 ≤ n → (invStep^[k] (invStart a n)).t.natAbs < n)

/-- Rules R160, R167: off the rounds `ISPRIME` needs no source and draws nothing: `{0, 1, 4}` composite, `{2, 3}` prime, and
"prime" from 5 up when `ITER = 0`. That these pass through `BUSY` and end at the first event is the model's choice (rule
R208; log entry 6). -/
def Obligations.IsprimeWithoutRounds : Prop :=
  ∀ (s : State) (ra : Reg),
    (s.reg ra = 0 ∨ s.reg ra = 1 ∨ s.reg ra = 4 →
      EndsAfter 1 (.isprime ra) s ((s.setPrime false).complete))
    ∧ (s.reg ra = 2 ∨ s.reg ra = 3 ∨ (5 ≤ s.reg ra ∧ s.iter.toNat = 0) →
      EndsAfter 1 (.isprime ra) s ((s.setPrime true).complete))

/-- Rules R160, R165, R166: `ISPRIME` ends with the verdict and the source that the rounds of rule R165 give, one draw for
each round begun. -/
def Obligations.IsprimeAgreesWithRounds : Prop :=
  ∀ (s : State) (ra : Reg) (prime : Bool) (rng' : Option Source),
    TestGives (s.reg ra) s.iter.toNat s.rng prime rng' →
      EndsIn (.isprime ra) s (((s.setRng rng').setPrime prime).complete)

/-- Rule R288: unless it faults, `ISPRIME` ends, on every operand and whatever the source draws. -/
def Obligations.IsprimeAlwaysEnds : Prop :=
  ∀ (s : State) (ra : Reg), ¬(s.rng = none ∧ 5 ≤ s.reg ra ∧ 1 ≤ s.iter.toNat) →
    ∃ prime rng', EndsIn (.isprime ra) s (((s.setRng rng').setPrime prime).complete)

/-- Rule R156: "For a prime `n >= 5` every witness passes every round, so the verdict is "prime" whatever is drawn". -/
def Obligations.IsprimeAcceptsEveryPrime : Prop :=
  ∀ (s : State) (ra : Reg), Nat.Prime (s.reg ra) → (5 ≤ s.reg ra → 1 ≤ s.iter.toNat → s.rng.isSome = true) →
    ∃ rng', EndsIn (.isprime ra) s (((s.setRng rng').setPrime true).complete)

/-- Rule R167: 6 and 9 have no passing witness, so with a round they are "composite" whatever is drawn. -/
def Obligations.SixAndNineAreComposite : Prop :=
  ∀ (s : State) (ra : Reg), (s.reg ra = 6 ∨ s.reg ra = 9) → 1 ≤ s.iter.toNat → s.rng.isSome = true →
    ∃ rng', EndsIn (.isprime ra) s (((s.setRng rng').setPrime false).complete)

/-- Rules R171, R176: where the search of rule R171 ends with `c`, `MAKEPRIME` ends with `c` in its destination, `PRIME = 1`
and the source after all its draws. -/
def Obligations.MakeprimeAgreesWithSearch : Prop :=
  ∀ (s : State) (rd : Reg) (st st' : Source) (c : Nat),
    s.rng = some st → s.bits.toNat ≤ s.W → SearchGives s.bits.toNat s.iter.toNat st c st' →
      EndsIn (.makeprime rd) s ((((s.setRng (some st')).setReg rd c).setPrime true).complete)

/-- Rule R175: where the search does not end, the block stays `BUSY` for ever: no cap, no fault. -/
def Obligations.MakeprimeRunsForEverWhereSearchDoes : Prop :=
  ∀ (s : State) (rd : Reg) (st : Source), s.rng = some st → s.bits.toNat ≤ s.W →
    (¬∃ c st', SearchGives s.bits.toNat s.iter.toNat st c st') → NeverEnds (.makeprime rd) s

/-- Rule R175: with `BITS = 0` the candidate is always 0, and `MAKEPRIME` hangs whatever the source draws. -/
def Obligations.MakeprimeOfZeroBitsHangs : Prop :=
  ∀ (s : State) (rd : Reg), s.rng.isSome = true → s.bits.toNat = 0 → NeverEnds (.makeprime rd) s

/-- Rules R172, R174, R30: what a completed `MAKEPRIME` leaves: `PRIME = 1` and a value from 2 up, below `2^BITS` for
`BITS >= 2`, and 2 for `BITS = 1`. -/
def Obligations.MakeprimeResultRange : Prop :=
  ∀ (s t : State) (rd : Reg), s.rng.isSome = true → s.bits.toNat ≤ s.W → exec (.makeprime rd) s = .next t →
    t.busy = false →
      t.done = true ∧ t.prime = true ∧ 2 ≤ t.reg rd ∧ (2 ≤ s.bits.toNat → t.reg rd < 2 ^ s.bits.toNat)
        ∧ (s.bits.toNat = 1 → t.reg rd = 2)

/-- Rule R189: `SEED` ends with `rng_state = rng_seed(R[RA])` and `rng_valid = 1`. The one event, with `BUSY` before it, is the
model's choice (rule R208; log entry 6). -/
def Obligations.SeedResult : Prop :=
  ∀ (s : State) (ra : Reg), s.rng = none →
    EndsAfter 1 (.seed ra) s ((s.setRng (some (Config.rngSeed (s.reg ra)))).complete)

/-- Rule R192: `RNGCLR` ends with `rng_valid = 0`. The one event, with `BUSY` before it, is the model's choice (rule R208; log
entry 6). -/
def Obligations.RngclrResult : Prop :=
  ∀ s : State, s.rng.isSome = true → EndsAfter 1 .rngclr s ((s.setRng none).complete)

/-- Rules R187, R190: `RNDBITS` ends with one draw, a value in `[0, 2^BITS)`, in its destination.The value is
open (log entry 3); one event for draw and completion, with `BUSY` before it, is the model's choice (log entry 6). -/
def Obligations.RndbitsResult : Prop :=
  ∀ (s : State) (rd : Reg) (st : Source), s.rng = some st → s.bits.toNat ≤ s.W →
    ∃ st' v, drawBits st s.bits.toNat = (st', v) ∧ v < 2 ^ s.bits.toNat
      ∧ EndsAfter 1 (.rndbits rd) s (((s.setRng (some st')).setReg rd v).complete)

/-- Rules R188, R191: `RNDUNI` ends with one draw, a value in `[0, bound)`, in its destination, also where `RD = RA`.The value is
open (log entry 3); one event for draw and completion, with `BUSY` before it, is the model's choice (log entry 6). -/
def Obligations.RnduniResult : Prop :=
  ∀ (s : State) (rd ra : Reg) (st : Source), s.rng = some st → s.reg ra ≠ 0 →
    ∃ st' v, drawUniform st (s.reg ra) = (st', v) ∧ v < s.reg ra
      ∧ EndsAfter 1 (.rnduni rd ra) s (((s.setRng (some st')).setReg rd v).complete)

/-! Frames and whole-machine rules. -/

/-- Rule R22: every command, completed, faulted or in flight, leaves every big register but its `RD`, and `CMD`, `ITER`,
`BITS`, `PARAM`, `DROP` and the model's own records, as they were. -/
def Obligations.CommandFrameRegisters : Prop :=
  ∀ (i : Instr) (s t : State), exec i s = .next t →
    (∀ r, i.dest ≠ some r → t.reg r = s.reg r) ∧ t.cmd = s.cmd ∧ t.iter = s.iter ∧ t.bits = s.bits
      ∧ t.param = s.param ∧ t.drop = s.drop ∧ t.host = s.host ∧ t.turns = s.turns ∧ t.resp = s.resp

/-- Rules R30, R31, R32, R194: only `ISPRIME` and `MAKEPRIME` change `PRIME`, only `MODINV` changes `NOINV`, only `SEED` and
`RNGCLR` change `rng_valid`, and only those two and the four drawing commands change the random source at all. -/
def Obligations.CommandFrameFlags : Prop :=
  ∀ (i : Instr) (s t : State), exec i s = .next t →
    ((∀ ra, i ≠ .isprime ra) → (∀ rd, i ≠ .makeprime rd) → t.prime = s.prime)
      ∧ ((∀ rd ra rm, i ≠ .modinv rd ra rm) → t.noinv = s.noinv)
      ∧ ((∀ ra, i ≠ .seed ra) → i ≠ .rngclr → t.rngValid = s.rngValid)
      ∧ ((∀ ra, i ≠ .seed ra) → i ≠ .rngclr → (∀ ra, i ≠ .isprime ra) → (∀ rd, i ≠ .makeprime rd) →
          (∀ rd, i ≠ .rndbits rd) → (∀ rd ra, i ≠ .rnduni rd ra) → t.rng = s.rng)

/-- Rules R22, R53: after any command every word of the window but `STATUS` and the limbs of its `RD` reads as before. -/
def Obligations.CommandFrameWindow : Prop :=
  ∀ (i : Instr) (s t : State) (addr size : Nat), exec i s = .next t →
    place s.W addr size ≠ .status → (∀ r j, place s.W addr size = .limbOf r j → i.dest ≠ some r) →
      t.memRead addr size = s.memRead addr size

/-- Rule R207: while the command stays in flight, an engine event changes nothing that a host can read. -/
def Obligations.RunIsInvisible : Prop :=
  ∀ s : State, s.busy = true → (engineEvent s).busy = true →
    ∀ addr size, (engineEvent s).memRead addr size = s.memRead addr size

/-- Rules R28, R208: an event that ends the command clears `BUSY` and sets `DONE`, without a fault. -/
def Obligations.CompletionSetsDone : Prop :=
  ∀ s : State, s.busy = true → (engineEvent s).busy = false →
    (engineEvent s).done = true ∧ (engineEvent s).err = false

/-- Rules R193, R38: `rng_valid` rises only at the completion of `SEED`, and falls only at the completion of `RNGCLR` or at
reset. -/
def Obligations.RngLifecycle : Prop :=
  (∀ s : State, (engineEvent s).rngValid = true → s.rngValid = false → ∃ v, s.phase = .run (.seed v))
    ∧ (∀ s : State, (engineEvent s).rngValid = false → s.rngValid = true → s.phase = .run .rngclr)
    ∧ ∀ (s t : State) (a : Access) (rest : List HostStep), a ≠ .reset →
        s.host = { access := a, turns := 0 } :: rest → step s = .next t → t.rng = s.rng

/-- Rules R8, R21, R16, R124, R138, R142, R163, R254: the invariant of `Safety.lean` is kept by every step: a legal width,
every big register below `2^W`, and a command in flight with its loop's invariant. -/
def Obligations.StepKeepsInv : Prop := ∀ s t : State, s.Inv → step s = .next t → t.Inv

/-- The invariant holds right after reset. -/
def Obligations.ResetMeetsInv : Prop := State.reset.Inv

/-! The polling loop (45_control.md R214). -/

/-- Rules R98, R214: from an idle block without `DROP`, a command line ends at the first poll that finds the command over;
and where it ends, the block is not `BUSY`, `CMD` holds the word, and what the loop tells is so: completed with `DONE` and
without a fault, or the fault whose code it names. The schedule of engine events is an argument (log entry 4). -/
def Obligations.CommandLineReportsTheOutcome : Prop :=
  ∀ (s : State) (w : Word) (n : Nat), s.phase = .idle → s.drop = false →
    (∀ m rest, (s.perform { access := .write 0x000 4 w, turns := n }).busy = false →
      ∃ r, lineCommand w n (m :: rest) s = some r)
    ∧ ∀ polls outcome t, lineCommand w n polls s = some (outcome, t) →
        t.busy = false ∧ t.cmd = w
          ∧ ((outcome = .completed ∧ t.done = true ∧ t.err = false)
            ∨ ∃ c, t.phase = .fault c ∧ outcome = .faulted c.number)

/-- Rules R206, R214: a command line in phase `FAULT`, with another word than `CMD` holds, tells that the command never ran;
`CMD` and the phase are as they were. That this is told before the old fault is log entry 32 (DEDUCED). -/
def Obligations.CommandLineTellsDroppedCommand : Prop :=
  ∀ (s : State) (w : Word) (n m : Nat) (rest : List Nat), s.err = true → w ≠ s.cmd →
    ∃ t, lineCommand w n (m :: rest) s = some (.neverRan, t) ∧ t.cmd = s.cmd ∧ t.phase = s.phase
end

