-- ==== Sys2Proof/Laws/State.lean ====
section
/-! SUPPORT. One lemma per field per named update of `Machine/Ops.lean`, true by `rfl`, so that no later proof unfolds a
record update; and the values of `State.resetFor`. -/

namespace Sys2Proof.Machine

/-! Fields of `State.setReg`. -/

@[simp] theorem State.setReg_regs (s : State) (i : Reg) (v : Nat) : (s.setReg i v).regs = s.regs.set i v := rfl
@[simp] theorem State.setReg_cmd (s : State) (i : Reg) (v : Nat) : (s.setReg i v).cmd = s.cmd := rfl
@[simp] theorem State.setReg_iter (s : State) (i : Reg) (v : Nat) : (s.setReg i v).iter = s.iter := rfl
@[simp] theorem State.setReg_bits (s : State) (i : Reg) (v : Nat) : (s.setReg i v).bits = s.bits := rfl
@[simp] theorem State.setReg_param (s : State) (i : Reg) (v : Nat) : (s.setReg i v).param = s.param := rfl
@[simp] theorem State.setReg_done (s : State) (i : Reg) (v : Nat) : (s.setReg i v).done = s.done := rfl
@[simp] theorem State.setReg_prime (s : State) (i : Reg) (v : Nat) : (s.setReg i v).prime = s.prime := rfl
@[simp] theorem State.setReg_noinv (s : State) (i : Reg) (v : Nat) : (s.setReg i v).noinv = s.noinv := rfl
@[simp] theorem State.setReg_drop (s : State) (i : Reg) (v : Nat) : (s.setReg i v).drop = s.drop := rfl
@[simp] theorem State.setReg_rng (s : State) (i : Reg) (v : Nat) : (s.setReg i v).rng = s.rng := rfl
@[simp] theorem State.setReg_phase (s : State) (i : Reg) (v : Nat) : (s.setReg i v).phase = s.phase := rfl
@[simp] theorem State.setReg_host (s : State) (i : Reg) (v : Nat) : (s.setReg i v).host = s.host := rfl
@[simp] theorem State.setReg_turns (s : State) (i : Reg) (v : Nat) : (s.setReg i v).turns = s.turns := rfl
@[simp] theorem State.setReg_resp (s : State) (i : Reg) (v : Nat) : (s.setReg i v).resp = s.resp := rfl

/-! Fields of `State.setPhase`. -/

@[simp] theorem State.setPhase_regs (s : State) (p : Phase) : (s.setPhase p).regs = s.regs := rfl
@[simp] theorem State.setPhase_cmd (s : State) (p : Phase) : (s.setPhase p).cmd = s.cmd := rfl
@[simp] theorem State.setPhase_iter (s : State) (p : Phase) : (s.setPhase p).iter = s.iter := rfl
@[simp] theorem State.setPhase_bits (s : State) (p : Phase) : (s.setPhase p).bits = s.bits := rfl
@[simp] theorem State.setPhase_param (s : State) (p : Phase) : (s.setPhase p).param = s.param := rfl
@[simp] theorem State.setPhase_done (s : State) (p : Phase) : (s.setPhase p).done = s.done := rfl
@[simp] theorem State.setPhase_prime (s : State) (p : Phase) : (s.setPhase p).prime = s.prime := rfl
@[simp] theorem State.setPhase_noinv (s : State) (p : Phase) : (s.setPhase p).noinv = s.noinv := rfl
@[simp] theorem State.setPhase_drop (s : State) (p : Phase) : (s.setPhase p).drop = s.drop := rfl
@[simp] theorem State.setPhase_rng (s : State) (p : Phase) : (s.setPhase p).rng = s.rng := rfl
@[simp] theorem State.setPhase_phase (s : State) (p : Phase) : (s.setPhase p).phase = p := rfl
@[simp] theorem State.setPhase_host (s : State) (p : Phase) : (s.setPhase p).host = s.host := rfl
@[simp] theorem State.setPhase_turns (s : State) (p : Phase) : (s.setPhase p).turns = s.turns := rfl
@[simp] theorem State.setPhase_resp (s : State) (p : Phase) : (s.setPhase p).resp = s.resp := rfl

/-! Fields of `State.setRng`. -/

@[simp] theorem State.setRng_regs (s : State) (r : Option Source) : (s.setRng r).regs = s.regs := rfl
@[simp] theorem State.setRng_cmd (s : State) (r : Option Source) : (s.setRng r).cmd = s.cmd := rfl
@[simp] theorem State.setRng_iter (s : State) (r : Option Source) : (s.setRng r).iter = s.iter := rfl
@[simp] theorem State.setRng_bits (s : State) (r : Option Source) : (s.setRng r).bits = s.bits := rfl
@[simp] theorem State.setRng_param (s : State) (r : Option Source) : (s.setRng r).param = s.param := rfl
@[simp] theorem State.setRng_done (s : State) (r : Option Source) : (s.setRng r).done = s.done := rfl
@[simp] theorem State.setRng_prime (s : State) (r : Option Source) : (s.setRng r).prime = s.prime := rfl
@[simp] theorem State.setRng_noinv (s : State) (r : Option Source) : (s.setRng r).noinv = s.noinv := rfl
@[simp] theorem State.setRng_drop (s : State) (r : Option Source) : (s.setRng r).drop = s.drop := rfl
@[simp] theorem State.setRng_rng (s : State) (r : Option Source) : (s.setRng r).rng = r := rfl
@[simp] theorem State.setRng_phase (s : State) (r : Option Source) : (s.setRng r).phase = s.phase := rfl
@[simp] theorem State.setRng_host (s : State) (r : Option Source) : (s.setRng r).host = s.host := rfl
@[simp] theorem State.setRng_turns (s : State) (r : Option Source) : (s.setRng r).turns = s.turns := rfl
@[simp] theorem State.setRng_resp (s : State) (r : Option Source) : (s.setRng r).resp = s.resp := rfl

/-! Fields of `State.setPrime`. -/

@[simp] theorem State.setPrime_regs (s : State) (b : Bool) : (s.setPrime b).regs = s.regs := rfl
@[simp] theorem State.setPrime_cmd (s : State) (b : Bool) : (s.setPrime b).cmd = s.cmd := rfl
@[simp] theorem State.setPrime_iter (s : State) (b : Bool) : (s.setPrime b).iter = s.iter := rfl
@[simp] theorem State.setPrime_bits (s : State) (b : Bool) : (s.setPrime b).bits = s.bits := rfl
@[simp] theorem State.setPrime_param (s : State) (b : Bool) : (s.setPrime b).param = s.param := rfl
@[simp] theorem State.setPrime_done (s : State) (b : Bool) : (s.setPrime b).done = s.done := rfl
@[simp] theorem State.setPrime_prime (s : State) (b : Bool) : (s.setPrime b).prime = b := rfl
@[simp] theorem State.setPrime_noinv (s : State) (b : Bool) : (s.setPrime b).noinv = s.noinv := rfl
@[simp] theorem State.setPrime_drop (s : State) (b : Bool) : (s.setPrime b).drop = s.drop := rfl
@[simp] theorem State.setPrime_rng (s : State) (b : Bool) : (s.setPrime b).rng = s.rng := rfl
@[simp] theorem State.setPrime_phase (s : State) (b : Bool) : (s.setPrime b).phase = s.phase := rfl
@[simp] theorem State.setPrime_host (s : State) (b : Bool) : (s.setPrime b).host = s.host := rfl
@[simp] theorem State.setPrime_turns (s : State) (b : Bool) : (s.setPrime b).turns = s.turns := rfl
@[simp] theorem State.setPrime_resp (s : State) (b : Bool) : (s.setPrime b).resp = s.resp := rfl

/-! Fields of `State.setNoinv`. -/

@[simp] theorem State.setNoinv_regs (s : State) (b : Bool) : (s.setNoinv b).regs = s.regs := rfl
@[simp] theorem State.setNoinv_cmd (s : State) (b : Bool) : (s.setNoinv b).cmd = s.cmd := rfl
@[simp] theorem State.setNoinv_iter (s : State) (b : Bool) : (s.setNoinv b).iter = s.iter := rfl
@[simp] theorem State.setNoinv_bits (s : State) (b : Bool) : (s.setNoinv b).bits = s.bits := rfl
@[simp] theorem State.setNoinv_param (s : State) (b : Bool) : (s.setNoinv b).param = s.param := rfl
@[simp] theorem State.setNoinv_done (s : State) (b : Bool) : (s.setNoinv b).done = s.done := rfl
@[simp] theorem State.setNoinv_prime (s : State) (b : Bool) : (s.setNoinv b).prime = s.prime := rfl
@[simp] theorem State.setNoinv_noinv (s : State) (b : Bool) : (s.setNoinv b).noinv = b := rfl
@[simp] theorem State.setNoinv_drop (s : State) (b : Bool) : (s.setNoinv b).drop = s.drop := rfl
@[simp] theorem State.setNoinv_rng (s : State) (b : Bool) : (s.setNoinv b).rng = s.rng := rfl
@[simp] theorem State.setNoinv_phase (s : State) (b : Bool) : (s.setNoinv b).phase = s.phase := rfl
@[simp] theorem State.setNoinv_host (s : State) (b : Bool) : (s.setNoinv b).host = s.host := rfl
@[simp] theorem State.setNoinv_turns (s : State) (b : Bool) : (s.setNoinv b).turns = s.turns := rfl
@[simp] theorem State.setNoinv_resp (s : State) (b : Bool) : (s.setNoinv b).resp = s.resp := rfl

/-! Fields of `State.setDone`. -/

@[simp] theorem State.setDone_regs (s : State) (b : Bool) : (s.setDone b).regs = s.regs := rfl
@[simp] theorem State.setDone_cmd (s : State) (b : Bool) : (s.setDone b).cmd = s.cmd := rfl
@[simp] theorem State.setDone_iter (s : State) (b : Bool) : (s.setDone b).iter = s.iter := rfl
@[simp] theorem State.setDone_bits (s : State) (b : Bool) : (s.setDone b).bits = s.bits := rfl
@[simp] theorem State.setDone_param (s : State) (b : Bool) : (s.setDone b).param = s.param := rfl
@[simp] theorem State.setDone_done (s : State) (b : Bool) : (s.setDone b).done = b := rfl
@[simp] theorem State.setDone_prime (s : State) (b : Bool) : (s.setDone b).prime = s.prime := rfl
@[simp] theorem State.setDone_noinv (s : State) (b : Bool) : (s.setDone b).noinv = s.noinv := rfl
@[simp] theorem State.setDone_drop (s : State) (b : Bool) : (s.setDone b).drop = s.drop := rfl
@[simp] theorem State.setDone_rng (s : State) (b : Bool) : (s.setDone b).rng = s.rng := rfl
@[simp] theorem State.setDone_phase (s : State) (b : Bool) : (s.setDone b).phase = s.phase := rfl
@[simp] theorem State.setDone_host (s : State) (b : Bool) : (s.setDone b).host = s.host := rfl
@[simp] theorem State.setDone_turns (s : State) (b : Bool) : (s.setDone b).turns = s.turns := rfl
@[simp] theorem State.setDone_resp (s : State) (b : Bool) : (s.setDone b).resp = s.resp := rfl

/-! Fields of `State.setDrop`. -/

@[simp] theorem State.setDrop_regs (s : State) (b : Bool) : (s.setDrop b).regs = s.regs := rfl
@[simp] theorem State.setDrop_cmd (s : State) (b : Bool) : (s.setDrop b).cmd = s.cmd := rfl
@[simp] theorem State.setDrop_iter (s : State) (b : Bool) : (s.setDrop b).iter = s.iter := rfl
@[simp] theorem State.setDrop_bits (s : State) (b : Bool) : (s.setDrop b).bits = s.bits := rfl
@[simp] theorem State.setDrop_param (s : State) (b : Bool) : (s.setDrop b).param = s.param := rfl
@[simp] theorem State.setDrop_done (s : State) (b : Bool) : (s.setDrop b).done = s.done := rfl
@[simp] theorem State.setDrop_prime (s : State) (b : Bool) : (s.setDrop b).prime = s.prime := rfl
@[simp] theorem State.setDrop_noinv (s : State) (b : Bool) : (s.setDrop b).noinv = s.noinv := rfl
@[simp] theorem State.setDrop_drop (s : State) (b : Bool) : (s.setDrop b).drop = b := rfl
@[simp] theorem State.setDrop_rng (s : State) (b : Bool) : (s.setDrop b).rng = s.rng := rfl
@[simp] theorem State.setDrop_phase (s : State) (b : Bool) : (s.setDrop b).phase = s.phase := rfl
@[simp] theorem State.setDrop_host (s : State) (b : Bool) : (s.setDrop b).host = s.host := rfl
@[simp] theorem State.setDrop_turns (s : State) (b : Bool) : (s.setDrop b).turns = s.turns := rfl
@[simp] theorem State.setDrop_resp (s : State) (b : Bool) : (s.setDrop b).resp = s.resp := rfl

/-! Fields of `State.setCmd`. -/

@[simp] theorem State.setCmd_regs (s : State) (w : Word) : (s.setCmd w).regs = s.regs := rfl
@[simp] theorem State.setCmd_cmd (s : State) (w : Word) : (s.setCmd w).cmd = w := rfl
@[simp] theorem State.setCmd_iter (s : State) (w : Word) : (s.setCmd w).iter = s.iter := rfl
@[simp] theorem State.setCmd_bits (s : State) (w : Word) : (s.setCmd w).bits = s.bits := rfl
@[simp] theorem State.setCmd_param (s : State) (w : Word) : (s.setCmd w).param = s.param := rfl
@[simp] theorem State.setCmd_done (s : State) (w : Word) : (s.setCmd w).done = s.done := rfl
@[simp] theorem State.setCmd_prime (s : State) (w : Word) : (s.setCmd w).prime = s.prime := rfl
@[simp] theorem State.setCmd_noinv (s : State) (w : Word) : (s.setCmd w).noinv = s.noinv := rfl
@[simp] theorem State.setCmd_drop (s : State) (w : Word) : (s.setCmd w).drop = s.drop := rfl
@[simp] theorem State.setCmd_rng (s : State) (w : Word) : (s.setCmd w).rng = s.rng := rfl
@[simp] theorem State.setCmd_phase (s : State) (w : Word) : (s.setCmd w).phase = s.phase := rfl
@[simp] theorem State.setCmd_host (s : State) (w : Word) : (s.setCmd w).host = s.host := rfl
@[simp] theorem State.setCmd_turns (s : State) (w : Word) : (s.setCmd w).turns = s.turns := rfl
@[simp] theorem State.setCmd_resp (s : State) (w : Word) : (s.setCmd w).resp = s.resp := rfl

/-! Fields of `State.setIter`. -/

@[simp] theorem State.setIter_regs (s : State) (v : Word) : (s.setIter v).regs = s.regs := rfl
@[simp] theorem State.setIter_cmd (s : State) (v : Word) : (s.setIter v).cmd = s.cmd := rfl
@[simp] theorem State.setIter_iter (s : State) (v : Word) : (s.setIter v).iter = v := rfl
@[simp] theorem State.setIter_bits (s : State) (v : Word) : (s.setIter v).bits = s.bits := rfl
@[simp] theorem State.setIter_param (s : State) (v : Word) : (s.setIter v).param = s.param := rfl
@[simp] theorem State.setIter_done (s : State) (v : Word) : (s.setIter v).done = s.done := rfl
@[simp] theorem State.setIter_prime (s : State) (v : Word) : (s.setIter v).prime = s.prime := rfl
@[simp] theorem State.setIter_noinv (s : State) (v : Word) : (s.setIter v).noinv = s.noinv := rfl
@[simp] theorem State.setIter_drop (s : State) (v : Word) : (s.setIter v).drop = s.drop := rfl
@[simp] theorem State.setIter_rng (s : State) (v : Word) : (s.setIter v).rng = s.rng := rfl
@[simp] theorem State.setIter_phase (s : State) (v : Word) : (s.setIter v).phase = s.phase := rfl
@[simp] theorem State.setIter_host (s : State) (v : Word) : (s.setIter v).host = s.host := rfl
@[simp] theorem State.setIter_turns (s : State) (v : Word) : (s.setIter v).turns = s.turns := rfl
@[simp] theorem State.setIter_resp (s : State) (v : Word) : (s.setIter v).resp = s.resp := rfl

/-! Fields of `State.setBits`. -/

@[simp] theorem State.setBits_regs (s : State) (v : Word) : (s.setBits v).regs = s.regs := rfl
@[simp] theorem State.setBits_cmd (s : State) (v : Word) : (s.setBits v).cmd = s.cmd := rfl
@[simp] theorem State.setBits_iter (s : State) (v : Word) : (s.setBits v).iter = s.iter := rfl
@[simp] theorem State.setBits_bits (s : State) (v : Word) : (s.setBits v).bits = v := rfl
@[simp] theorem State.setBits_param (s : State) (v : Word) : (s.setBits v).param = s.param := rfl
@[simp] theorem State.setBits_done (s : State) (v : Word) : (s.setBits v).done = s.done := rfl
@[simp] theorem State.setBits_prime (s : State) (v : Word) : (s.setBits v).prime = s.prime := rfl
@[simp] theorem State.setBits_noinv (s : State) (v : Word) : (s.setBits v).noinv = s.noinv := rfl
@[simp] theorem State.setBits_drop (s : State) (v : Word) : (s.setBits v).drop = s.drop := rfl
@[simp] theorem State.setBits_rng (s : State) (v : Word) : (s.setBits v).rng = s.rng := rfl
@[simp] theorem State.setBits_phase (s : State) (v : Word) : (s.setBits v).phase = s.phase := rfl
@[simp] theorem State.setBits_host (s : State) (v : Word) : (s.setBits v).host = s.host := rfl
@[simp] theorem State.setBits_turns (s : State) (v : Word) : (s.setBits v).turns = s.turns := rfl
@[simp] theorem State.setBits_resp (s : State) (v : Word) : (s.setBits v).resp = s.resp := rfl

/-! Fields of `State.respond`. -/

@[simp] theorem State.respond_regs (s : State) (r : Response) : (s.respond r).regs = s.regs := rfl
@[simp] theorem State.respond_cmd (s : State) (r : Response) : (s.respond r).cmd = s.cmd := rfl
@[simp] theorem State.respond_iter (s : State) (r : Response) : (s.respond r).iter = s.iter := rfl
@[simp] theorem State.respond_bits (s : State) (r : Response) : (s.respond r).bits = s.bits := rfl
@[simp] theorem State.respond_param (s : State) (r : Response) : (s.respond r).param = s.param := rfl
@[simp] theorem State.respond_done (s : State) (r : Response) : (s.respond r).done = s.done := rfl
@[simp] theorem State.respond_prime (s : State) (r : Response) : (s.respond r).prime = s.prime := rfl
@[simp] theorem State.respond_noinv (s : State) (r : Response) : (s.respond r).noinv = s.noinv := rfl
@[simp] theorem State.respond_drop (s : State) (r : Response) : (s.respond r).drop = s.drop := rfl
@[simp] theorem State.respond_rng (s : State) (r : Response) : (s.respond r).rng = s.rng := rfl
@[simp] theorem State.respond_phase (s : State) (r : Response) : (s.respond r).phase = s.phase := rfl
@[simp] theorem State.respond_host (s : State) (r : Response) : (s.respond r).host = s.host := rfl
@[simp] theorem State.respond_turns (s : State) (r : Response) : (s.respond r).turns = s.turns := rfl
@[simp] theorem State.respond_resp (s : State) (r : Response) : (s.respond r).resp = some r := rfl

/-! Fields of `State.grant`. -/

@[simp] theorem State.grant_regs (s : State) (n : Nat) : (s.grant n).regs = s.regs := rfl
@[simp] theorem State.grant_cmd (s : State) (n : Nat) : (s.grant n).cmd = s.cmd := rfl
@[simp] theorem State.grant_iter (s : State) (n : Nat) : (s.grant n).iter = s.iter := rfl
@[simp] theorem State.grant_bits (s : State) (n : Nat) : (s.grant n).bits = s.bits := rfl
@[simp] theorem State.grant_param (s : State) (n : Nat) : (s.grant n).param = s.param := rfl
@[simp] theorem State.grant_done (s : State) (n : Nat) : (s.grant n).done = s.done := rfl
@[simp] theorem State.grant_prime (s : State) (n : Nat) : (s.grant n).prime = s.prime := rfl
@[simp] theorem State.grant_noinv (s : State) (n : Nat) : (s.grant n).noinv = s.noinv := rfl
@[simp] theorem State.grant_drop (s : State) (n : Nat) : (s.grant n).drop = s.drop := rfl
@[simp] theorem State.grant_rng (s : State) (n : Nat) : (s.grant n).rng = s.rng := rfl
@[simp] theorem State.grant_phase (s : State) (n : Nat) : (s.grant n).phase = s.phase := rfl
@[simp] theorem State.grant_host (s : State) (n : Nat) : (s.grant n).host = s.host := rfl
@[simp] theorem State.grant_turns (s : State) (n : Nat) : (s.grant n).turns = n := rfl
@[simp] theorem State.grant_resp (s : State) (n : Nat) : (s.grant n).resp = s.resp := rfl

/-! Fields of `State.setHost`. -/

@[simp] theorem State.setHost_regs (s : State) (h : List HostStep) : (s.setHost h).regs = s.regs := rfl
@[simp] theorem State.setHost_cmd (s : State) (h : List HostStep) : (s.setHost h).cmd = s.cmd := rfl
@[simp] theorem State.setHost_iter (s : State) (h : List HostStep) : (s.setHost h).iter = s.iter := rfl
@[simp] theorem State.setHost_bits (s : State) (h : List HostStep) : (s.setHost h).bits = s.bits := rfl
@[simp] theorem State.setHost_param (s : State) (h : List HostStep) : (s.setHost h).param = s.param := rfl
@[simp] theorem State.setHost_done (s : State) (h : List HostStep) : (s.setHost h).done = s.done := rfl
@[simp] theorem State.setHost_prime (s : State) (h : List HostStep) : (s.setHost h).prime = s.prime := rfl
@[simp] theorem State.setHost_noinv (s : State) (h : List HostStep) : (s.setHost h).noinv = s.noinv := rfl
@[simp] theorem State.setHost_drop (s : State) (h : List HostStep) : (s.setHost h).drop = s.drop := rfl
@[simp] theorem State.setHost_rng (s : State) (h : List HostStep) : (s.setHost h).rng = s.rng := rfl
@[simp] theorem State.setHost_phase (s : State) (h : List HostStep) : (s.setHost h).phase = s.phase := rfl
@[simp] theorem State.setHost_host (s : State) (h : List HostStep) : (s.setHost h).host = h := rfl
@[simp] theorem State.setHost_turns (s : State) (h : List HostStep) : (s.setHost h).turns = s.turns := rfl
@[simp] theorem State.setHost_resp (s : State) (h : List HostStep) : (s.setHost h).resp = s.resp := rfl

/-! Fields of `State.accept`. -/

@[simp] theorem State.accept_regs (s : State) (w : Word) : (s.accept w).regs = s.regs := rfl
@[simp] theorem State.accept_cmd (s : State) (w : Word) : (s.accept w).cmd = w := rfl
@[simp] theorem State.accept_iter (s : State) (w : Word) : (s.accept w).iter = s.iter := rfl
@[simp] theorem State.accept_bits (s : State) (w : Word) : (s.accept w).bits = s.bits := rfl
@[simp] theorem State.accept_param (s : State) (w : Word) : (s.accept w).param = s.param := rfl
@[simp] theorem State.accept_done (s : State) (w : Word) : (s.accept w).done = false := rfl
@[simp] theorem State.accept_prime (s : State) (w : Word) : (s.accept w).prime = s.prime := rfl
@[simp] theorem State.accept_noinv (s : State) (w : Word) : (s.accept w).noinv = s.noinv := rfl
@[simp] theorem State.accept_drop (s : State) (w : Word) : (s.accept w).drop = s.drop := rfl
@[simp] theorem State.accept_rng (s : State) (w : Word) : (s.accept w).rng = s.rng := rfl
@[simp] theorem State.accept_phase (s : State) (w : Word) : (s.accept w).phase = s.phase := rfl
@[simp] theorem State.accept_host (s : State) (w : Word) : (s.accept w).host = s.host := rfl
@[simp] theorem State.accept_turns (s : State) (w : Word) : (s.accept w).turns = s.turns := rfl
@[simp] theorem State.accept_resp (s : State) (w : Word) : (s.accept w).resp = some .ack := rfl

/-! Fields of `State.runJob`. -/

@[simp] theorem State.runJob_regs (s : State) (job : Job) : (s.runJob job).regs = s.regs := rfl
@[simp] theorem State.runJob_cmd (s : State) (job : Job) : (s.runJob job).cmd = s.cmd := rfl
@[simp] theorem State.runJob_iter (s : State) (job : Job) : (s.runJob job).iter = s.iter := rfl
@[simp] theorem State.runJob_bits (s : State) (job : Job) : (s.runJob job).bits = s.bits := rfl
@[simp] theorem State.runJob_param (s : State) (job : Job) : (s.runJob job).param = s.param := rfl
@[simp] theorem State.runJob_done (s : State) (job : Job) : (s.runJob job).done = s.done := rfl
@[simp] theorem State.runJob_prime (s : State) (job : Job) : (s.runJob job).prime = s.prime := rfl
@[simp] theorem State.runJob_noinv (s : State) (job : Job) : (s.runJob job).noinv = s.noinv := rfl
@[simp] theorem State.runJob_drop (s : State) (job : Job) : (s.runJob job).drop = s.drop := rfl
@[simp] theorem State.runJob_rng (s : State) (job : Job) : (s.runJob job).rng = s.rng := rfl
@[simp] theorem State.runJob_phase (s : State) (job : Job) : (s.runJob job).phase = .run job := rfl
@[simp] theorem State.runJob_host (s : State) (job : Job) : (s.runJob job).host = s.host := rfl
@[simp] theorem State.runJob_turns (s : State) (job : Job) : (s.runJob job).turns = s.turns := rfl
@[simp] theorem State.runJob_resp (s : State) (job : Job) : (s.runJob job).resp = s.resp := rfl

/-! Fields of `State.complete`. -/

@[simp] theorem State.complete_regs (s : State) : s.complete.regs = s.regs := rfl
@[simp] theorem State.complete_cmd (s : State) : s.complete.cmd = s.cmd := rfl
@[simp] theorem State.complete_iter (s : State) : s.complete.iter = s.iter := rfl
@[simp] theorem State.complete_bits (s : State) : s.complete.bits = s.bits := rfl
@[simp] theorem State.complete_param (s : State) : s.complete.param = s.param := rfl
@[simp] theorem State.complete_done (s : State) : s.complete.done = true := rfl
@[simp] theorem State.complete_prime (s : State) : s.complete.prime = s.prime := rfl
@[simp] theorem State.complete_noinv (s : State) : s.complete.noinv = s.noinv := rfl
@[simp] theorem State.complete_drop (s : State) : s.complete.drop = s.drop := rfl
@[simp] theorem State.complete_rng (s : State) : s.complete.rng = s.rng := rfl
@[simp] theorem State.complete_phase (s : State) : s.complete.phase = .idle := rfl
@[simp] theorem State.complete_host (s : State) : s.complete.host = s.host := rfl
@[simp] theorem State.complete_turns (s : State) : s.complete.turns = s.turns := rfl
@[simp] theorem State.complete_resp (s : State) : s.complete.resp = s.resp := rfl

/-! Fields of `State.raiseFault`. -/

@[simp] theorem State.raiseFault_regs (s : State) (code : FaultCode) : (s.raiseFault code).regs = s.regs := rfl
@[simp] theorem State.raiseFault_cmd (s : State) (code : FaultCode) : (s.raiseFault code).cmd = s.cmd := rfl
@[simp] theorem State.raiseFault_iter (s : State) (code : FaultCode) : (s.raiseFault code).iter = s.iter := rfl
@[simp] theorem State.raiseFault_bits (s : State) (code : FaultCode) : (s.raiseFault code).bits = s.bits := rfl
@[simp] theorem State.raiseFault_param (s : State) (code : FaultCode) : (s.raiseFault code).param = s.param := rfl
@[simp] theorem State.raiseFault_done (s : State) (code : FaultCode) : (s.raiseFault code).done = s.done := rfl
@[simp] theorem State.raiseFault_prime (s : State) (code : FaultCode) : (s.raiseFault code).prime = s.prime := rfl
@[simp] theorem State.raiseFault_noinv (s : State) (code : FaultCode) : (s.raiseFault code).noinv = s.noinv := rfl
@[simp] theorem State.raiseFault_drop (s : State) (code : FaultCode) : (s.raiseFault code).drop = s.drop := rfl
@[simp] theorem State.raiseFault_rng (s : State) (code : FaultCode) : (s.raiseFault code).rng = s.rng := rfl
@[simp] theorem State.raiseFault_phase (s : State) (code : FaultCode) : (s.raiseFault code).phase = .fault code := rfl
@[simp] theorem State.raiseFault_host (s : State) (code : FaultCode) : (s.raiseFault code).host = s.host := rfl
@[simp] theorem State.raiseFault_turns (s : State) (code : FaultCode) : (s.raiseFault code).turns = s.turns := rfl
@[simp] theorem State.raiseFault_resp (s : State) (code : FaultCode) : (s.raiseFault code).resp = s.resp := rfl

/-! Fields of `State.dropWrite`. -/

@[simp] theorem State.dropWrite_regs (s : State) : s.dropWrite.regs = s.regs := rfl
@[simp] theorem State.dropWrite_cmd (s : State) : s.dropWrite.cmd = s.cmd := rfl
@[simp] theorem State.dropWrite_iter (s : State) : s.dropWrite.iter = s.iter := rfl
@[simp] theorem State.dropWrite_bits (s : State) : s.dropWrite.bits = s.bits := rfl
@[simp] theorem State.dropWrite_param (s : State) : s.dropWrite.param = s.param := rfl
@[simp] theorem State.dropWrite_done (s : State) : s.dropWrite.done = s.done := rfl
@[simp] theorem State.dropWrite_prime (s : State) : s.dropWrite.prime = s.prime := rfl
@[simp] theorem State.dropWrite_noinv (s : State) : s.dropWrite.noinv = s.noinv := rfl
@[simp] theorem State.dropWrite_drop (s : State) : s.dropWrite.drop = true := rfl
@[simp] theorem State.dropWrite_rng (s : State) : s.dropWrite.rng = s.rng := rfl
@[simp] theorem State.dropWrite_phase (s : State) : s.dropWrite.phase = s.phase := rfl
@[simp] theorem State.dropWrite_host (s : State) : s.dropWrite.host = s.host := rfl
@[simp] theorem State.dropWrite_turns (s : State) : s.dropWrite.turns = s.turns := rfl
@[simp] theorem State.dropWrite_resp (s : State) : s.dropWrite.resp = some .ack := rfl

/-! Fields of `State.writeVerdict`. -/

@[simp] theorem State.writeVerdict_regs (s : State) (b : Bool) : (s.writeVerdict b).regs = s.regs := rfl
@[simp] theorem State.writeVerdict_cmd (s : State) (b : Bool) : (s.writeVerdict b).cmd = s.cmd := rfl
@[simp] theorem State.writeVerdict_iter (s : State) (b : Bool) : (s.writeVerdict b).iter = s.iter := rfl
@[simp] theorem State.writeVerdict_bits (s : State) (b : Bool) : (s.writeVerdict b).bits = s.bits := rfl
@[simp] theorem State.writeVerdict_param (s : State) (b : Bool) : (s.writeVerdict b).param = s.param := rfl
@[simp] theorem State.writeVerdict_done (s : State) (b : Bool) : (s.writeVerdict b).done = s.done := rfl
@[simp] theorem State.writeVerdict_prime (s : State) (b : Bool) : (s.writeVerdict b).prime = b := rfl
@[simp] theorem State.writeVerdict_noinv (s : State) (b : Bool) : (s.writeVerdict b).noinv = s.noinv := rfl
@[simp] theorem State.writeVerdict_drop (s : State) (b : Bool) : (s.writeVerdict b).drop = s.drop := rfl
@[simp] theorem State.writeVerdict_rng (s : State) (b : Bool) : (s.writeVerdict b).rng = s.rng := rfl
@[simp] theorem State.writeVerdict_phase (s : State) (b : Bool) : (s.writeVerdict b).phase = s.phase := rfl
@[simp] theorem State.writeVerdict_host (s : State) (b : Bool) : (s.writeVerdict b).host = s.host := rfl
@[simp] theorem State.writeVerdict_turns (s : State) (b : Bool) : (s.writeVerdict b).turns = s.turns := rfl
@[simp] theorem State.writeVerdict_resp (s : State) (b : Bool) : (s.writeVerdict b).resp = s.resp := rfl

/-! Fields of `State.resetFor`. -/

@[simp] theorem State.resetFor_regs (W : Nat) : (State.resetFor W).regs = Vector.replicate 8 0 := rfl
@[simp] theorem State.resetFor_cmd (W : Nat) : (State.resetFor W).cmd = 0 := rfl
@[simp] theorem State.resetFor_iter (W : Nat) : (State.resetFor W).iter = 0 := rfl
@[simp] theorem State.resetFor_bits (W : Nat) : (State.resetFor W).bits = 0 := rfl
@[simp] theorem State.resetFor_param (W : Nat) : (State.resetFor W).param = BitVec.ofNat 32 W := rfl
@[simp] theorem State.resetFor_done (W : Nat) : (State.resetFor W).done = false := rfl
@[simp] theorem State.resetFor_prime (W : Nat) : (State.resetFor W).prime = false := rfl
@[simp] theorem State.resetFor_noinv (W : Nat) : (State.resetFor W).noinv = false := rfl
@[simp] theorem State.resetFor_drop (W : Nat) : (State.resetFor W).drop = false := rfl
@[simp] theorem State.resetFor_rng (W : Nat) : (State.resetFor W).rng = none := rfl
@[simp] theorem State.resetFor_phase (W : Nat) : (State.resetFor W).phase = .idle := rfl
@[simp] theorem State.resetFor_host (W : Nat) : (State.resetFor W).host = [] := rfl
@[simp] theorem State.resetFor_turns (W : Nat) : (State.resetFor W).turns = 0 := rfl
@[simp] theorem State.resetFor_resp (W : Nat) : (State.resetFor W).resp = none := rfl

end Sys2Proof.Machine
end

