-- ==== Sys2Proof/Laws/Ops.lean ====
section
/-! SUPPORT. What each shared operation of `Machine/Ops.lean` and `Machine/Flags.lean` does, said once. -/

namespace Sys2Proof.Machine

/-! Registers and the width. -/

theorem State.reg_congr {s t : State} (h : t.regs = s.regs) (i : Reg) : t.reg i = s.reg i := by
  simp only [State.reg, h]

theorem State.W_congr {s t : State} (h : t.param = s.param) : t.W = s.W := by simp only [State.W, h]

@[simp] theorem State.reg_setReg (s : State) (i j : Reg) (v : Nat) :
    (s.setReg i v).reg j = if i = j then v else s.reg j := by
  simp only [State.reg, State.setReg_regs, Vector.get_eq_getElem, Vector.getElem_set, Fin.ext_iff]

theorem State.reg_setReg_self (s : State) (i : Reg) (v : Nat) : (s.setReg i v).reg i = v := by simp

theorem State.reg_setReg_of_ne (s : State) {i j : Reg} (v : Nat) (h : i ≠ j) :
    (s.setReg i v).reg j = s.reg j := by simp [h]

@[simp] theorem State.reg_resetFor (W : Nat) (i : Reg) : (State.resetFor W).reg i = 0 := by
  simp [State.reg, Vector.get_eq_getElem]

@[simp] theorem State.W_resetFor {W : Nat} (h : W < 2 ^ 32) : (State.resetFor W).W = W := by
  simp only [State.W, State.resetFor_param, BitVec.toNat_ofNat]
  exact Nat.mod_eq_of_lt h

/-- The width of the open parameter is legal (rule R8). -/
theorem legalW_config : legalW Config.W := by
  have h : Config.extraLimbs % (2 ^ 27 - 2) < 2 ^ 27 - 2 := Nat.mod_lt _ (by decide)
  simp only [legalW, Config.W]
  omega

@[simp] theorem State.W_reset : State.reset.W = Config.W := State.W_resetFor legalW_config.2.2

/-! Updates that write no big register, and none writes the width. -/

@[simp] theorem State.reg_setPhase (s : State) (p : Phase) (i : Reg) : (s.setPhase p).reg i = s.reg i := rfl
@[simp] theorem State.reg_setRng (s : State) (r : Option Source) (i : Reg) : (s.setRng r).reg i = s.reg i := rfl
@[simp] theorem State.reg_setPrime (s : State) (b : Bool) (i : Reg) : (s.setPrime b).reg i = s.reg i := rfl
@[simp] theorem State.reg_setNoinv (s : State) (b : Bool) (i : Reg) : (s.setNoinv b).reg i = s.reg i := rfl
@[simp] theorem State.reg_setDone (s : State) (b : Bool) (i : Reg) : (s.setDone b).reg i = s.reg i := rfl
@[simp] theorem State.reg_setDrop (s : State) (b : Bool) (i : Reg) : (s.setDrop b).reg i = s.reg i := rfl
@[simp] theorem State.reg_setCmd (s : State) (w : Word) (i : Reg) : (s.setCmd w).reg i = s.reg i := rfl
@[simp] theorem State.reg_setIter (s : State) (v : Word) (i : Reg) : (s.setIter v).reg i = s.reg i := rfl
@[simp] theorem State.reg_setBits (s : State) (v : Word) (i : Reg) : (s.setBits v).reg i = s.reg i := rfl
@[simp] theorem State.reg_respond (s : State) (r : Response) (i : Reg) : (s.respond r).reg i = s.reg i := rfl
@[simp] theorem State.reg_grant (s : State) (n : Nat) (i : Reg) : (s.grant n).reg i = s.reg i := rfl
@[simp] theorem State.reg_setHost (s : State) (h : List HostStep) (i : Reg) : (s.setHost h).reg i = s.reg i := rfl
@[simp] theorem State.reg_accept (s : State) (w : Word) (i : Reg) : (s.accept w).reg i = s.reg i := rfl
@[simp] theorem State.reg_runJob (s : State) (job : Job) (i : Reg) : (s.runJob job).reg i = s.reg i := rfl
@[simp] theorem State.reg_complete (s : State) (i : Reg) : s.complete.reg i = s.reg i := rfl
@[simp] theorem State.reg_raiseFault (s : State) (code : FaultCode) (i : Reg) : (s.raiseFault code).reg i = s.reg i := rfl
@[simp] theorem State.reg_dropWrite (s : State) (i : Reg) : s.dropWrite.reg i = s.reg i := rfl
@[simp] theorem State.W_setReg (s : State) (i : Reg) (v : Nat) : (s.setReg i v).W = s.W := rfl
@[simp] theorem State.W_setPhase (s : State) (p : Phase) : (s.setPhase p).W = s.W := rfl
@[simp] theorem State.W_setRng (s : State) (r : Option Source) : (s.setRng r).W = s.W := rfl
@[simp] theorem State.W_setPrime (s : State) (b : Bool) : (s.setPrime b).W = s.W := rfl
@[simp] theorem State.W_setNoinv (s : State) (b : Bool) : (s.setNoinv b).W = s.W := rfl
@[simp] theorem State.W_setDone (s : State) (b : Bool) : (s.setDone b).W = s.W := rfl
@[simp] theorem State.W_setDrop (s : State) (b : Bool) : (s.setDrop b).W = s.W := rfl
@[simp] theorem State.W_setCmd (s : State) (w : Word) : (s.setCmd w).W = s.W := rfl
@[simp] theorem State.W_setIter (s : State) (v : Word) : (s.setIter v).W = s.W := rfl
@[simp] theorem State.W_setBits (s : State) (v : Word) : (s.setBits v).W = s.W := rfl
@[simp] theorem State.W_respond (s : State) (r : Response) : (s.respond r).W = s.W := rfl
@[simp] theorem State.W_grant (s : State) (n : Nat) : (s.grant n).W = s.W := rfl
@[simp] theorem State.W_setHost (s : State) (h : List HostStep) : (s.setHost h).W = s.W := rfl
@[simp] theorem State.W_accept (s : State) (w : Word) : (s.accept w).W = s.W := rfl
@[simp] theorem State.W_runJob (s : State) (job : Job) : (s.runJob job).W = s.W := rfl
@[simp] theorem State.W_complete (s : State) : s.complete.W = s.W := rfl
@[simp] theorem State.W_raiseFault (s : State) (code : FaultCode) : (s.raiseFault code).W = s.W := rfl
@[simp] theorem State.W_dropWrite (s : State) : s.dropWrite.W = s.W := rfl

/-! Limbs (rules R52, R54). -/

/-- A digit below `B` over a rest below `P` is below `B * P`. -/
theorem digit_lt {lo x P B : Nat} (hlo : lo < P) (hx : x < B) : x * P + lo < B * P := by
  calc x * P + lo < x * P + P := by omega
    _ = (x + 1) * P := by ring
    _ ≤ B * P := Nat.mul_le_mul_right _ hx

/-- Limb `j + 1`'s weight is `2^32` times limb `j`'s. -/
theorem limbWeight_succ (j : Nat) : 2 ^ (32 * (j + 1)) = 2 ^ 32 * 2 ^ (32 * j) := by
  rw [← pow_add]; congr 1; ring

/-- `setLimb` as the high limbs over the written limb over the low limbs. -/
theorem setLimb_eq (v j : Nat) (x : Word) :
    setLimb v j x = v % 2 ^ (32 * j) + 2 ^ (32 * j) * (2 ^ 32 * (v / 2 ^ (32 * (j + 1))) + x.toNat) := by
  unfold setLimb; rw [limbWeight_succ]; ring

theorem setLimb_div_succ (v j : Nat) (x : Word) :
    setLimb v j x / 2 ^ (32 * (j + 1)) = v / 2 ^ (32 * (j + 1)) := by
  have hlo : v % 2 ^ (32 * j) < 2 ^ (32 * j) := Nat.mod_lt _ (Nat.two_pow_pos _)
  have hmid : x.toNat * 2 ^ (32 * j) + v % 2 ^ (32 * j) < 2 ^ (32 * (j + 1)) := by
    rw [limbWeight_succ]; exact digit_lt hlo x.isLt
  have e : setLimb v j x = (x.toNat * 2 ^ (32 * j) + v % 2 ^ (32 * j))
      + 2 ^ (32 * (j + 1)) * (v / 2 ^ (32 * (j + 1))) := by unfold setLimb; ring
  rw [e, Nat.add_mul_div_left _ _ (Nat.two_pow_pos _), Nat.div_eq_of_lt hmid, Nat.zero_add]

theorem setLimb_mod (v j : Nat) (x : Word) : setLimb v j x % 2 ^ (32 * j) = v % 2 ^ (32 * j) := by
  rw [setLimb_eq, Nat.add_mul_mod_self_left, Nat.mod_mod]

/-- A limb write keeps a value of `n` limbs within `n` limbs. -/
theorem setLimb_lt {v j n : Nat} (x : Word) (hv : v < 2 ^ (32 * n)) (hj : j < n) :
    setLimb v j x < 2 ^ (32 * n) := by
  obtain ⟨d, rfl⟩ : ∃ d, n = j + 1 + d := ⟨n - (j + 1), by omega⟩
  have e : 2 ^ (32 * (j + 1 + d)) = 2 ^ (32 * (j + 1)) * 2 ^ (32 * d) := by
    rw [← pow_add]; congr 1; ring
  rw [e] at hv ⊢
  have h := Nat.div_lt_of_lt_mul hv
  rw [← setLimb_div_succ v j x] at h
  exact Nat.lt_of_div_lt_div (c := 2 ^ (32 * (j + 1)))
    (by rwa [Nat.mul_div_cancel_left _ (Nat.two_pow_pos _)])

/-- The written limb reads back as written. -/
theorem limb_setLimb_self (v j : Nat) (x : Word) : limb (setLimb v j x) j = x := by
  have hdiv : setLimb v j x / 2 ^ (32 * j) = 2 ^ 32 * (v / 2 ^ (32 * (j + 1))) + x.toNat := by
    rw [setLimb_eq, Nat.add_mul_div_left _ _ (Nat.two_pow_pos _),
      Nat.div_eq_of_lt (Nat.mod_lt _ (Nat.two_pow_pos _)), Nat.zero_add]
  apply BitVec.eq_of_toNat_eq
  rw [limb, hdiv, BitVec.toNat_ofNat, Nat.mul_add_mod]
  exact Nat.mod_eq_of_lt x.isLt

/-- A limb below limb `j` depends on the low `j` limbs alone. -/
theorem limb_eq_of_mod {u v j k : Nat} (hk : k < j) (h : u % 2 ^ (32 * j) = v % 2 ^ (32 * j)) :
    limb u k = limb v k := by
  obtain ⟨d, rfl⟩ : ∃ d, j = k + 1 + d := ⟨j - (k + 1), by omega⟩
  have e : 2 ^ (32 * (k + 1 + d)) = 2 ^ (32 * k) * (2 ^ 32 * 2 ^ (32 * d)) := by
    rw [← pow_add, ← pow_add]; congr 1; ring
  have key : ∀ w : Nat, w / 2 ^ (32 * k) % 2 ^ 32 = w % 2 ^ (32 * (k + 1 + d)) / 2 ^ (32 * k) % 2 ^ 32 := by
    intro w
    rw [e, Nat.mod_mul_right_div_self, Nat.mod_mul_right_mod]
  apply BitVec.eq_of_toNat_eq
  simp only [limb, BitVec.toNat_ofNat]
  rw [key u, h, ← key v]

/-- A limb above limb `j` depends on the limbs above `j` alone. -/
theorem limb_eq_of_div {u v j k : Nat} (hk : j < k)
    (h : u / 2 ^ (32 * (j + 1)) = v / 2 ^ (32 * (j + 1))) : limb u k = limb v k := by
  obtain ⟨d, rfl⟩ : ∃ d, k = j + 1 + d := ⟨k - (j + 1), by omega⟩
  have e : 2 ^ (32 * (j + 1 + d)) = 2 ^ (32 * (j + 1)) * 2 ^ (32 * d) := by
    rw [← pow_add]; congr 1; ring
  simp only [limb]
  rw [e, ← Nat.div_div_eq_div_mul, ← Nat.div_div_eq_div_mul, h]

/-- Every other limb reads as before. -/
theorem limb_setLimb_of_ne (v : Nat) {j k : Nat} (x : Word) (h : k ≠ j) : limb (setLimb v j x) k = limb v k := by
  rcases Nat.lt_or_gt_of_ne h with hk | hk
  · exact limb_eq_of_mod hk (setLimb_mod v j x)
  · exact limb_eq_of_div hk (setLimb_div_succ v j x)

/-! Draws (rules R187, R188). -/

theorem drawBits_lt (st : Source) (n : Nat) : (drawBits st n).2 < 2 ^ n := Nat.mod_lt _ (Nat.two_pow_pos _)

theorem drawUniform_lt (st : Source) {b : Nat} (h : 0 < b) : (drawUniform st b).2 < b := Nat.mod_lt _ h

@[simp] theorem drawBits_zero (st : Source) : (drawBits st 0).2 = 0 := Nat.mod_one _

@[simp] theorem drawUniform_one (st : Source) : (drawUniform st 1).2 = 0 := Nat.mod_one _

/-! Phases. -/

theorem State.busy_eq_true {s : State} : s.busy = true ↔ ∃ job, s.phase = .run job := by
  unfold State.busy; cases s.phase <;> simp

theorem State.err_eq_true {s : State} : s.err = true ↔ ∃ code, s.phase = .fault code := by
  unfold State.err; cases s.phase <;> simp

theorem State.busy_eq_false {s : State} : s.busy = false ↔ s.phase = .idle ∨ ∃ code, s.phase = .fault code := by
  unfold State.busy; cases s.phase <;> simp

theorem State.err_eq_false {s : State} : s.err = false ↔ s.phase = .idle ∨ ∃ job, s.phase = .run job := by
  unfold State.err; cases s.phase <;> simp

/-- The return from a fault changes the phase alone, and only from `FAULT` (rule R257). -/
theorem State.clearErr_eq (s : State) : s.clearErr = if s.err then s.setPhase .idle else s := by
  unfold State.clearErr State.err; cases s.phase <;> rfl

/-- A fault is reported exactly when some condition holds, and then it is the first one's (rule R255). -/
theorem firstFault_cons (b : Bool) (c : FaultCode) (rest : List (Bool × FaultCode)) :
    firstFault ((b, c) :: rest) = if b then some c else firstFault rest := rfl

@[simp] theorem firstFault_nil : firstFault [] = none := rfl

/-- Everything a write to `STATUS` can do (rule R26): `DONE`, `DROP` and the phase, and nothing else. -/
theorem State.writeStatus_eq (s : State) (v : Word) :
    s.writeStatus v =
      ((s.setDone (s.done && !v.getLsbD 1)).setDrop (s.drop && !v.getLsbD 6)).setPhase
        (if v.getLsbD 2 && s.err then .idle else s.phase) := by
  obtain ⟨regs, cmd, iter, bits, param, done, prime, noinv, drop, rng, phase, host, turns, resp⟩ := s
  unfold State.writeStatus
  cases phase <;> cases v.getLsbD 1 <;> cases v.getLsbD 2 <;> cases v.getLsbD 6 <;>
    simp [State.clearErr, State.err, State.setPhase, State.setDone, State.setDrop]

end Sys2Proof.Machine
end

