-- ==== Sys2Proof/Laws/Engine.lean ====
section
/-! SUPPORT. What one engine event, a number of them, and issue can do (rules R205 to R208), said once. -/

namespace Sys2Proof.Machine

/-! One event by phase (rule R39). -/

theorem engineEvent_run {s : State} {job : Job} (h : s.phase = .run job) : engineEvent s = jobEvent job s := by
  simp only [engineEvent, h]

theorem engineEvent_idle {s : State} (h : s.phase = .idle) : engineEvent s = s := by
  simp only [engineEvent, h]

theorem engineEvent_fault {s : State} {c : FaultCode} (h : s.phase = .fault c) : engineEvent s = s := by
  simp only [engineEvent, h]

/-- Without a command in flight the engine does nothing (rule R281). -/
theorem engineEvent_of_not_busy {s : State} (h : s.busy = false) : engineEvent s = s := by
  rcases State.busy_eq_false.1 h with h | ⟨c, h⟩
  · exact engineEvent_idle h
  · exact engineEvent_fault h

/-! A number of events. -/

@[simp] theorem runEngine_zero (s : State) : runEngine 0 s = s := rfl

theorem runEngine_succ (k : Nat) (s : State) : runEngine (k + 1) s = runEngine k (engineEvent s) := rfl

theorem runEngine_add (j k : Nat) (s : State) : runEngine (j + k) s = runEngine k (runEngine j s) := by
  induction j generalizing s with
  | zero => simp
  | succ j ih => rw [Nat.succ_add, runEngine_succ, ih, runEngine_succ]

/-- Events that are left over after the end of a command change nothing. -/
theorem runEngine_of_not_busy {s : State} (h : s.busy = false) (k : Nat) : runEngine k s = s := by
  induction k with
  | zero => rfl
  | succ k ih => rw [runEngine_succ, engineEvent_of_not_busy h, ih]

/-- What every event keeps, any number of events keeps. -/
theorem runEngine_induction {P : State → Prop} (keeps : ∀ s, P s → P (engineEvent s)) {s : State} (h : P s)
    (k : Nat) : P (runEngine k s) := by
  induction k generalizing s with
  | zero => exact h
  | succ k ih => exact ih (keeps s h)

/-! Issue (rule R205). -/

@[simp] theorem issue_some (c : FaultCode) (job : Job) (s : State) :
    issue (some c) job s = .next (s.raiseFault c) := rfl

@[simp] theorem issue_none (job : Job) (s : State) :
    issue none job s = .next (runEngine s.turns (s.runJob job)) := rfl

/-- Everything issue can do: the fault entry, or the command in flight and the events that follow. -/
theorem issue_next {f : Option FaultCode} {job : Job} {s t : State} (h : issue f job s = .next t) :
    (∃ c, f = some c ∧ t = s.raiseFault c) ∨ (f = none ∧ t = runEngine s.turns (s.runJob job)) := by
  cases f with
  | some c => exact .inl ⟨c, rfl, (Host.Outcome.next.inj h).symm⟩
  | none => exact .inr ⟨rfl, (Host.Outcome.next.inj h).symm⟩

theorem issue_exists (f : Option FaultCode) (job : Job) (s : State) : ∃ t, issue f job s = .next t := by
  cases f <;> exact ⟨_, rfl⟩

/-! The register a command in flight writes, and what one event leaves alone. -/

/-- `RD` of a command in flight (rule R40). -/
def Job.dest : Job → Option Reg
  | .nop => none
  | .modmul rd _ _ _ => some rd
  | .modexp rd _ => some rd
  | .gcd rd _ => some rd
  | .modinv rd _ => some rd
  | .isprime _ => none
  | .makeprime rd _ _ _ => some rd
  | .seed _ => none
  | .rngclr => none
  | .rndbits rd _ => some rd
  | .rnduni rd _ => some rd

/-- `Fixed s t`: the registers and records that no engine event writes are the same in `t` as in `s`. -/
structure Fixed (s t : State) : Prop where
  cmd : t.cmd = s.cmd
  iter : t.iter = s.iter
  bits : t.bits = s.bits
  param : t.param = s.param
  drop : t.drop = s.drop
  host : t.host = s.host
  turns : t.turns = s.turns
  resp : t.resp = s.resp

theorem Fixed.refl (s : State) : Fixed s s := ⟨rfl, rfl, rfl, rfl, rfl, rfl, rfl, rfl⟩

theorem Fixed.trans {s t u : State} (h : Fixed s t) (k : Fixed t u) : Fixed s u :=
  ⟨k.cmd.trans h.cmd, k.iter.trans h.iter, k.bits.trans h.bits, k.param.trans h.param, k.drop.trans h.drop,
    k.host.trans h.host, k.turns.trans h.turns, k.resp.trans h.resp⟩

/-- Everything one event of a command in flight can do (rules R207, R208): the command stays in flight, with the big
registers, `DONE`, `PRIME`, `NOINV` and `RNGV` as they were; or it completes, and then it writes its destination alone. -/
theorem jobEvent_cases (job : Job) (s : State) (h : s.phase = .run job) :
    (∃ job', (jobEvent job s).phase = .run job' ∧ job'.dest = job.dest ∧ (jobEvent job s).regs = s.regs
        ∧ (jobEvent job s).done = s.done ∧ (jobEvent job s).prime = s.prime
        ∧ (jobEvent job s).noinv = s.noinv ∧ (jobEvent job s).rngValid = s.rngValid)
      ∨ ((jobEvent job s).phase = .idle ∧ (jobEvent job s).done = true
        ∧ ∀ r, job.dest ≠ some r → (jobEvent job s).reg r = s.reg r) := by
  have other : ∀ (rd r : Reg) (v : Nat), some rd ≠ some r → (s.setReg rd v).reg r = s.reg r := by
    intro rd r v hr
    exact State.reg_setReg_of_ne s v (fun e => hr (congrArg some e))
  cases job with
  | nop => exact .inr ⟨rfl, rfl, fun _ _ => rfl⟩
  | modmul rd a b m => exact .inr ⟨rfl, rfl, fun r hr => other rd r _ hr⟩
  | modexp rd w =>
    by_cases hx : w.x = 0
    · simp only [jobEvent, if_pos hx]; exact .inr ⟨rfl, rfl, fun r hr => other rd r _ hr⟩
    · simp only [jobEvent, if_neg hx]; exact .inl ⟨_, rfl, rfl, rfl, rfl, rfl, rfl, rfl⟩
  | gcd rd w =>
    by_cases hb : w.b = 0
    · simp only [jobEvent, if_pos hb]; exact .inr ⟨rfl, rfl, fun r hr => other rd r _ hr⟩
    · simp only [jobEvent, if_neg hb]; exact .inl ⟨_, rfl, rfl, rfl, rfl, rfl, rfl, rfl⟩
  | modinv rd w =>
    by_cases hr1 : w.r1 = 0
    · simp only [jobEvent, if_pos hr1]; exact .inr ⟨rfl, rfl, fun r hr => other rd r _ hr⟩
    · simp only [jobEvent, if_neg hr1]; exact .inl ⟨_, rfl, rfl, rfl, rfl, rfl, rfl, rfl⟩
  | isprime t =>
    obtain ⟨n, k, s', r, i, stage⟩ := t
    cases stage with
    | verdict v => exact .inr ⟨rfl, rfl, fun _ _ => rfl⟩
    | draw =>
      left
      cases hr : s.rng with
      | none => exact ⟨_, rfl, rfl, rfl, rfl, rfl, rfl, by simp [jobEvent, primalityEvent, testEvent, State.rngValid, hr]⟩
      | some st => exact ⟨_, rfl, rfl, rfl, rfl, rfl, rfl, by simp [jobEvent, primalityEvent, testEvent, State.rngValid, hr]⟩
    | pow w => exact .inl ⟨_, rfl, rfl, rfl, rfl, rfl, rfl, rfl⟩
    | square a y j => exact .inl ⟨_, rfl, rfl, rfl, rfl, rfl, rfl, rfl⟩
  | makeprime rd w k search =>
    cases search with
    | none =>
      left
      cases hr : s.rng with
      | none =>
        refine ⟨.makeprime rd w k none, ?_⟩
        simp [jobEvent, searchEvent, hr, h]
      | some st => simp [jobEvent, searchEvent, hr, State.rngValid, Job.dest]
    | some t =>
      obtain ⟨n, k', s', r, i, stage⟩ := t
      cases stage with
      | verdict v =>
        cases v with
        | true => exact .inr ⟨rfl, rfl, fun r hr => other rd r _ hr⟩
        | false => exact .inl ⟨_, rfl, rfl, rfl, rfl, rfl, rfl, rfl⟩
      | draw =>
        left
        cases hr : s.rng with
        | none => exact ⟨_, rfl, rfl, rfl, rfl, rfl, rfl, by simp [jobEvent, searchEvent, testEvent, State.rngValid, hr]⟩
        | some st => exact ⟨_, rfl, rfl, rfl, rfl, rfl, rfl, by simp [jobEvent, searchEvent, testEvent, State.rngValid, hr]⟩
      | pow w => exact .inl ⟨_, rfl, rfl, rfl, rfl, rfl, rfl, rfl⟩
      | square a y j => exact .inl ⟨_, rfl, rfl, rfl, rfl, rfl, rfl, rfl⟩
  | seed v => exact .inr ⟨rfl, rfl, fun _ _ => rfl⟩
  | rngclr => exact .inr ⟨rfl, rfl, fun _ _ => rfl⟩
  | rndbits rd n =>
    cases hr : s.rng with
    | none => left; refine ⟨.rndbits rd n, ?_⟩; simp [jobEvent, hr, h]
    | some st =>
      right; simp only [jobEvent, hr]
      exact ⟨rfl, rfl, fun r hd => other rd r _ hd⟩
  | rnduni rd b =>
    cases hr : s.rng with
    | none => left; refine ⟨.rnduni rd b, ?_⟩; simp [jobEvent, hr, h]
    | some st =>
      right; simp only [jobEvent, hr]
      exact ⟨rfl, rfl, fun r hd => other rd r _ hd⟩

/-- No event of a command in flight writes `CMD`, `ITER`, `BITS`, `PARAM`, `DROP` or the model's own records. -/
theorem jobEvent_fixed (job : Job) (s : State) : Fixed s (jobEvent job s) := by
  cases job with
  | modexp rd w => by_cases hx : w.x = 0 <;> simp only [jobEvent, hx, if_true, if_false] <;> constructor <;> rfl
  | gcd rd w => by_cases hx : w.b = 0 <;> simp only [jobEvent, hx, if_true, if_false] <;> constructor <;> rfl
  | modinv rd w => by_cases hx : w.r1 = 0 <;> simp only [jobEvent, hx, if_true, if_false] <;> constructor <;> rfl
  | isprime t => obtain ⟨n, k, s', r, i, stage⟩ := t; cases stage <;> constructor <;> rfl
  | makeprime rd w k search =>
    cases search with
    | none => cases hr : s.rng <;> simp only [jobEvent, searchEvent, hr] <;> constructor <;> rfl
    | some t =>
      obtain ⟨n, k', s', r, i, stage⟩ := t
      cases stage with
      | verdict v => cases v <;> constructor <;> rfl
      | draw => constructor <;> rfl
      | pow w => constructor <;> rfl
      | square a y j => constructor <;> rfl
  | rndbits rd n => cases hr : s.rng <;> simp only [jobEvent, hr] <;> constructor <;> rfl
  | rnduni rd b => cases hr : s.rng <;> simp only [jobEvent, hr] <;> constructor <;> rfl
  | nop => constructor <;> rfl
  | modmul rd a b m => constructor <;> rfl
  | seed v => constructor <;> rfl
  | rngclr => constructor <;> rfl

theorem engineEvent_fixed (s : State) : Fixed s (engineEvent s) := by
  unfold engineEvent
  cases s.phase with
  | idle => exact Fixed.refl s
  | run job => exact jobEvent_fixed job s
  | fault c => exact Fixed.refl s

theorem runEngine_fixed (k : Nat) (s : State) : Fixed s (runEngine k s) :=
  runEngine_induction (P := Fixed s) (fun t h => h.trans (engineEvent_fixed t)) (Fixed.refl s) k

/-! One step of a test (rule R162). -/

/-- A test keeps its `n`, its number of rounds and its decomposition. -/
theorem testEvent_fixed (t : PrimeTest) (rng : Option Source) :
    (testEvent t rng).1.n = t.n ∧ (testEvent t rng).1.k = t.k ∧ (testEvent t rng).1.s = t.s
      ∧ (testEvent t rng).1.r = t.r := by
  obtain ⟨n, k, s, r, i, stage⟩ := t
  cases stage with
  | draw => cases rng <;> exact ⟨rfl, rfl, rfl, rfl⟩
  | pow w =>
    simp only [testEvent, powEnded, roundPassed]
    split_ifs <;> exact ⟨rfl, rfl, rfl, rfl⟩
  | square a y j =>
    simp only [testEvent, squareStep, roundPassed, roundFailed]
    split_ifs <;> exact ⟨rfl, rfl, rfl, rfl⟩
  | verdict v => exact ⟨rfl, rfl, rfl, rfl⟩

/-- A valid source stays valid through a test's step (rule R254). -/
theorem testEvent_rng (t : PrimeTest) (rng : Option Source) : (testEvent t rng).2.isSome = rng.isSome := by
  obtain ⟨n, k, s, r, i, stage⟩ := t
  cases stage with
  | draw => cases rng <;> rfl
  | pow w => rfl
  | square a y j => rfl
  | verdict v => rfl

/-- The decomposition of rule R163. -/
theorem oddPart_spec (fuel s r : Nat) (hr : 0 < r) (hf : r < 2 ^ fuel) :
    2 ^ s * r = 2 ^ (oddPart fuel s r).1 * (oddPart fuel s r).2 ∧ (oddPart fuel s r).2 % 2 = 1 := by
  induction fuel generalizing s r with
  | zero => omega
  | succ fuel ih =>
    unfold oddPart
    split
    · next h =>
      obtain ⟨q, rfl⟩ : ∃ q, r = 2 * q := ⟨r / 2, by omega⟩
      have e : 2 * q / 2 = q := by omega
      rw [e]
      have := ih (s + 1) q (by omega) (by rw [pow_succ] at hf; omega)
      rw [← this.1]
      exact ⟨by rw [pow_succ]; ring, this.2⟩
    · next h => exact ⟨rfl, by simpa using h⟩

theorem decompose_spec {n : Nat} (hn : 2 ≤ n) :
    n - 1 = 2 ^ (decompose n).1 * (decompose n).2 ∧ (decompose n).2 % 2 = 1 := by
  have h : n < 2 ^ bitlen n := by
    unfold bitlen
    rw [if_neg (by omega)]
    exact Nat.lt_log2_self
  have := oddPart_spec (bitlen n) 0 (n - 1) (by omega) (by omega)
  simpa [decompose] using this

end Sys2Proof.Machine
end

