-- ==== Sys2Proof/Laws/PerInstr.lean ====
section
/-! SUPPORT. A statement for all commands, one lemma per constructor of `Instr`: the word of a command is legal (rules
R83, R96) and its own row of the table selects it (rules R84, R86), at every value of every field. -/

namespace Sys2Proof.Laws.EncodedWord

/-- The encoded word is selected by the command's row, and it is a legal command word. -/
def Statement (i : Instr) : Prop :=
  i.row.selects (encode i) = true ∧ wordWellFormed (encode i) = true

theorem nop : Statement .nop := by unfold Statement; decide +kernel

theorem modmul (rd ra rb rm : Reg) : Statement (.modmul rd ra rb rm) := by
  unfold Statement; revert rd ra rb rm; decide +kernel

theorem modexp (rd ra rb rm : Reg) : Statement (.modexp rd ra rb rm) := by
  unfold Statement; revert rd ra rb rm; decide +kernel

theorem gcd (rd ra rb : Reg) : Statement (.gcd rd ra rb) := by
  unfold Statement; revert rd ra rb; decide +kernel

theorem modinv (rd ra rm : Reg) : Statement (.modinv rd ra rm) := by
  unfold Statement; revert rd ra rm; decide +kernel

theorem isprime (ra : Reg) : Statement (.isprime ra) := by
  unfold Statement; revert ra; decide +kernel

theorem makeprime (rd : Reg) : Statement (.makeprime rd) := by
  unfold Statement; revert rd; decide +kernel

theorem seed (ra : Reg) : Statement (.seed ra) := by
  unfold Statement; revert ra; decide +kernel

theorem rngclr : Statement .rngclr := by unfold Statement; decide +kernel

theorem rndbits (rd : Reg) : Statement (.rndbits rd) := by
  unfold Statement; revert rd; decide +kernel

theorem rnduni (rd ra : Reg) : Statement (.rnduni rd ra) := by
  unfold Statement; revert rd ra; decide +kernel

end Sys2Proof.Laws.EncodedWord
end

