-- ==== Sys2Proof/Laws/Window.lean ====
section
/-! SUPPORT. The register window (rules R51 to R59) and the step, said once. -/

namespace Sys2Proof.Machine

/-! Places. -/

/-- Limb offsets name limbs (rule R52). -/
theorem place_limbOffset {W : Nat} (hW : legalW W) (i : Reg) {j : Nat} (hj : j < W / 32) :
    place W (limbOffset W i j) 4 = .limbOf i j := by
  obtain ⟨h32, h64, -⟩ := hW
  obtain ⟨q, rfl⟩ : ∃ q, W = 32 * q := ⟨W / 32, by omega⟩
  have e8 : 32 * q / 8 = 4 * q := by omega
  have e32 : 32 * q / 32 = q := by omega
  rw [e32] at hj
  have hi : i.val ≤ 7 := by omega
  have hoff : limbOffset (32 * q) i j - 0x1000 = 4 * (q * i.val + j) := by
    simp only [limbOffset, e8]; ring_nf; omega
  have hlt : q * i.val + j < 8 * q := by nlinarith
  have hge : ¬limbOffset (32 * q) i j < 0x1000 := by simp only [limbOffset]; omega
  have hlt' : limbOffset (32 * q) i j < 0x1000 + 32 * q := by omega
  have hal : limbOffset (32 * q) i j % 4 = 0 := by omega
  have hdiv : 4 * (q * i.val + j) / (4 * q) = i.val := by
    rw [Nat.mul_div_mul_left _ _ (by omega), Nat.mul_add_div (by omega), Nat.div_eq_of_lt hj, Nat.add_zero]
  have hmod : 4 * (q * i.val + j) % (4 * q) / 4 = j := by
    rw [Nat.mul_mod_mul_left, Nat.mul_add_mod, Nat.mod_eq_of_lt hj]; omega
  have hfin : Fin.ofNat 8 i.val = i := Fin.ext (Nat.mod_eq_of_lt i.isLt)
  unfold place
  rw [if_neg (by omega), if_neg hge, if_pos hlt']
  simp only [limbPlace, hoff, e8, hdiv, hmod, hfin]

/-- A place that is a limb is one of the `W/32` limbs of a big register, at its offset (rule R52). -/
theorem place_eq_limbOf {W addr size : Nat} (hW : legalW W) {i : Reg} {j : Nat}
    (h : place W addr size = .limbOf i j) : size = 4 ∧ j < W / 32 ∧ addr = limbOffset W i j := by
  obtain ⟨h32, h64, -⟩ := hW
  unfold place at h
  split at h
  · cases h
  next hs =>
  split at h
  · unfold controlPlace at h
    split_ifs at h
  next hge =>
  split at h
  · next hlt =>
    obtain ⟨q, rfl⟩ : ∃ q, W = 32 * q := ⟨W / 32, by omega⟩
    have e8 : 32 * q / 8 = 4 * q := by omega
    have e32 : 32 * q / 32 = q := by omega
    obtain ⟨z, hz⟩ : ∃ z, addr = 0x1000 + 4 * z := ⟨(addr - 0x1000) / 4, by omega⟩
    simp only [limbPlace, e8, Place.limbOf.injEq] at h
    have hoff : addr - 0x1000 = 4 * z := by omega
    rw [hoff, Nat.mul_div_mul_left _ _ (by omega), Nat.mul_mod_mul_left] at h
    have hz8 : z / q < 8 := Nat.div_lt_of_lt_mul (by omega)
    have hi : i.val = z / q := by
      rw [← h.1]; simp [Fin.ofNat]; omega
    have hj : j = z % q := by omega
    have hq : 0 < q := by omega
    refine ⟨by omega, by rw [e32, hj]; exact Nat.mod_lt _ hq, ?_⟩
    have := Nat.div_add_mod z q
    simp only [limbOffset, e8, hi, hj]
    rw [hz]
    have : 4 * z = z / q * (4 * q) + 4 * (z % q) := by
      conv_lhs => rw [← this]
      ring
    omega
  · cases h

/-- An access is refused exactly when it is not a 32-bit access at a multiple of 4 below `0x1000 + W` (rule R59). -/
theorem place_eq_refused (W addr size : Nat) :
    place W addr size = .refused ↔ accessWellFormed W addr size = false := by
  have hc : controlPlace addr ≠ .refused := by unfold controlPlace; split_ifs <;> simp
  unfold place accessWellFormed
  split_ifs with h1 h2 h3
  · simp; omega
  · simp [hc]; omega
  · simp [limbPlace]; omega
  · simp; omega

/-! Reads. -/

/-- A word of the window depends on the registers, `STATUS` and the width alone. -/
theorem State.memRead_congr {s t : State} (hp : t.param = s.param) (hr : ∀ i, t.reg i = s.reg i) (hc : t.cmd = s.cmd)
    (hi : t.iter = s.iter) (hb : t.bits = s.bits) (hs : t.statusWord = s.statusWord) (addr size : Nat) :
    t.memRead addr size = s.memRead addr size := by
  unfold State.memRead
  rw [State.W_congr hp]
  cases place s.W addr size <;> simp [State.wordAt, hc, hs, hi, hb, hp, hr]

/-- Limb `j` of `R[i]` is read at its offset (rules R52, R53). -/
theorem State.memRead_limb {s : State} (hW : legalW s.W) (i : Reg) {j : Nat} (hj : j < s.W / 32) :
    s.memRead (limbOffset s.W i j) 4 = some (limb (s.reg i) j) := by
  simp only [State.memRead, place_limbOffset hW i hj, State.wordAt]

/-- Everything a read can do (rule R53): it is answered. -/
theorem State.busRead_eq (s : State) (addr size : Nat) :
    ∃ r, s.busRead addr size = s.respond r := by
  unfold State.busRead
  cases s.memRead addr size <;> exact ⟨_, rfl⟩

/-! Writes. -/

/-- Everything a write that is not a command can do (rules R54, R58): store and acknowledge, drop, or refuse. -/
theorem State.storeUnlessBusy_eq (s stored : State) :
    s.storeUnlessBusy stored = if s.busy then s.dropWrite else stored.respond .ack := rfl

/-- A write at any place but `CMD` keeps `CMD`, `PARAM`, `PRIME`, `NOINV`, the random source and the model's script. -/
theorem State.busWrite_fixed (s : State) (p : Place) (v : Word) :
    (s.busWrite p v).cmd = s.cmd ∧ (s.busWrite p v).param = s.param ∧ (s.busWrite p v).prime = s.prime
      ∧ (s.busWrite p v).noinv = s.noinv ∧ (s.busWrite p v).rng = s.rng ∧ (s.busWrite p v).host = s.host
      ∧ (s.busWrite p v).turns = s.turns := by
  cases p <;> simp only [State.busWrite, State.storeUnlessBusy, State.writeStatus_eq] <;> (try split_ifs) <;> simp

/-- A write at any place but `CMD` leaves the phase as it is, but for the return from a fault (rule R257). -/
theorem State.busWrite_phase (s : State) (p : Place) (v : Word) :
    (s.busWrite p v).phase = s.phase ∨ s.err = true ∧ (s.busWrite p v).phase = .idle := by
  cases p <;> simp only [State.busWrite, State.storeUnlessBusy, State.writeStatus_eq] <;> (try split_ifs) <;> simp_all

/-! The step. -/

/-- Every meaning answers a next state. -/
theorem exec_exists (i : Instr) (s : State) : ∃ t, exec i s = .next t := by
  cases i <;>
    simp only [exec, execNop, execModmul, execModexp, execGcd, execModinv, execIsprime, execMakeprime, execSeed,
      execRngclr, execRndbits, execRnduni] <;>
    exact issue_exists _ _ _

/-- Everything a `CMD` write can do (rules R205, R206, R96). -/
theorem commandWrite_cases (v : Word) (s : State) :
    (s.phase = .idle ∧ ∃ i, decode v = .ok i ∧ commandWrite v s = exec i (s.accept v))
      ∨ (s.phase = .idle ∧ ∃ r, decode v = .error r
          ∧ commandWrite v s = .next ((s.accept v).raiseFault .illegalCmd))
      ∨ (s.phase ≠ .idle ∧ commandWrite v s = .next (runEngine s.turns s.dropWrite)) := by
  unfold commandWrite
  cases hp : s.phase with
  | idle =>
    cases hd : decode v with
    | ok i => exact .inl ⟨rfl, i, rfl, rfl⟩
    | error r => exact .inr (.inl ⟨rfl, r, rfl, rfl⟩)
  | run job => exact .inr (.inr ⟨by simp, rfl⟩)
  | fault c => exact .inr (.inr ⟨by simp, rfl⟩)

/-- Everything an access can do (rules R53, R54, R280). -/
theorem access_cases (a : Access) (s : State) :
    (a = .reset ∧ access a s = .next s.hardReset)
      ∨ (∃ addr size, a = .read addr size ∧ access a s = .next (runEngine s.turns (s.busRead addr size)))
      ∨ (∃ addr size v, a = .write addr size v ∧ place s.W addr size = .cmd ∧ access a s = commandWrite v s)
      ∨ (∃ addr size v, a = .write addr size v ∧ place s.W addr size ≠ .cmd
          ∧ access a s = .next (runEngine s.turns (s.busWrite (place s.W addr size) v))) := by
  have turnsW : ∀ p v, (s.busWrite p v).turns = s.turns := fun p v => (s.busWrite_fixed p v).2.2.2.2.2.2
  cases a with
  | reset => exact .inl ⟨rfl, rfl⟩
  | read addr size =>
    obtain ⟨r, hr⟩ := s.busRead_eq addr size
    refine .inr (.inl ⟨addr, size, rfl, ?_⟩)
    simp only [access, afterTurns, hr, State.respond]
  | write addr size v =>
    by_cases hp : place s.W addr size = .cmd
    · exact .inr (.inr (.inl ⟨addr, size, v, rfl, hp, by simp only [access, hp]⟩))
    · refine .inr (.inr (.inr ⟨addr, size, v, rfl, hp, ?_⟩))
      have : access (.write addr size v) s = .next (afterTurns (s.busWrite (place s.W addr size) v)) := by
        simp only [access]
      rw [this, afterTurns, turnsW]

theorem step_nil {s : State} (h : s.host = []) : step s = .next (engineEvent s) := by
  simp only [step, hostStep, h]

theorem step_cons {s : State} {e : HostStep} {rest : List HostStep} (h : s.host = e :: rest) :
    step s = access e.access ((s.setHost rest).grant e.turns) := by
  simp only [step, hostStep, h]

/-- Every access answers a next state. -/
theorem access_exists (a : Access) (s : State) : ∃ t, access a s = .next t := by
  rcases access_cases a s with ⟨-, h⟩ | ⟨_, _, -, h⟩ | ⟨_, _, v, -, -, h⟩ | ⟨_, _, _, -, -, h⟩
  · exact ⟨_, h⟩
  · exact ⟨_, h⟩
  · rcases commandWrite_cases v s with ⟨-, i, -, hc⟩ | ⟨-, r, -, hc⟩ | ⟨-, hc⟩
    · obtain ⟨t, ht⟩ := exec_exists i (s.accept v)
      exact ⟨t, by rw [h, hc, ht]⟩
    · exact ⟨_, h.trans hc⟩
    · exact ⟨_, h.trans hc⟩
  · exact ⟨_, h⟩

end Sys2Proof.Machine
end

