-- ==== Sys2Proof/Laws/Step.lean ====
section
/-! SUPPORT. Everything `exec` and a step can do, said once: the inversion lemmas that proofs over all commands and all
steps cite. -/

namespace Sys2Proof.Machine

/-- Every meaning is an issue whose command in flight has the instruction's destination (rules R22, R205). -/
theorem exec_issue (i : Instr) (s : State) : ∃ f job, exec i s = issue f job s ∧ job.dest = i.dest := by
  cases i <;>
    simp only [exec, execNop, execModmul, execModexp, execGcd, execModinv, execIsprime, execMakeprime, execSeed,
      execRngclr, execRndbits, execRnduni] <;>
    exact ⟨_, _, rfl, rfl⟩

/-- Everything `exec` can do: the fault entry, or a command in flight and the engine events that follow. -/
theorem exec_next {i : Instr} {s t : State} (h : exec i s = .next t) :
    (∃ c, t = s.raiseFault c) ∨ ∃ job, job.dest = i.dest ∧ t = runEngine s.turns (s.runJob job) := by
  obtain ⟨f, job, hi, hd⟩ := exec_issue i s
  rw [hi] at h
  rcases issue_next h with ⟨c, -, ht⟩ | ⟨-, ht⟩
  · exact .inl ⟨c, ht⟩
  · exact .inr ⟨job, hd, ht⟩

/-- The state in which an access is performed: it is taken from the script, and its `turns` are granted. -/
def State.arrive (s : State) (rest : List HostStep) (n : Nat) : State := (s.setHost rest).grant n

@[simp] theorem State.arrive_regs (s : State) (rest : List HostStep) (n : Nat) :
    (s.arrive rest n).regs = s.regs := rfl

@[simp] theorem State.arrive_cmd (s : State) (rest : List HostStep) (n : Nat) :
    (s.arrive rest n).cmd = s.cmd := rfl

@[simp] theorem State.arrive_iter (s : State) (rest : List HostStep) (n : Nat) :
    (s.arrive rest n).iter = s.iter := rfl

@[simp] theorem State.arrive_bits (s : State) (rest : List HostStep) (n : Nat) :
    (s.arrive rest n).bits = s.bits := rfl

@[simp] theorem State.arrive_param (s : State) (rest : List HostStep) (n : Nat) :
    (s.arrive rest n).param = s.param := rfl

@[simp] theorem State.arrive_done (s : State) (rest : List HostStep) (n : Nat) :
    (s.arrive rest n).done = s.done := rfl

@[simp] theorem State.arrive_prime (s : State) (rest : List HostStep) (n : Nat) :
    (s.arrive rest n).prime = s.prime := rfl

@[simp] theorem State.arrive_noinv (s : State) (rest : List HostStep) (n : Nat) :
    (s.arrive rest n).noinv = s.noinv := rfl

@[simp] theorem State.arrive_drop (s : State) (rest : List HostStep) (n : Nat) :
    (s.arrive rest n).drop = s.drop := rfl

@[simp] theorem State.arrive_rng (s : State) (rest : List HostStep) (n : Nat) :
    (s.arrive rest n).rng = s.rng := rfl

@[simp] theorem State.arrive_phase (s : State) (rest : List HostStep) (n : Nat) :
    (s.arrive rest n).phase = s.phase := rfl

@[simp] theorem State.arrive_host (s : State) (rest : List HostStep) (n : Nat) :
    (s.arrive rest n).host = rest := rfl

@[simp] theorem State.arrive_turns (s : State) (rest : List HostStep) (n : Nat) :
    (s.arrive rest n).turns = n := rfl

@[simp] theorem State.arrive_resp (s : State) (rest : List HostStep) (n : Nat) :
    (s.arrive rest n).resp = s.resp := rfl

/-- Everything a step can do (rules R41, R53, R54, R58, R205, R206, R280). -/
inductive StepDoes (s : State) : State → Prop where
  /-- No access to come: one engine event. -/
  | engine (h : s.host = []) : StepDoes s (engineEvent s)
  /-- The reset input. -/
  | reset (n : Nat) (rest : List HostStep) (h : s.host = { access := .reset, turns := n } :: rest) :
      StepDoes s (s.arrive rest n).hardReset
  /-- A read. -/
  | read (addr size n : Nat) (rest : List HostStep) (r : Response)
      (h : s.host = { access := .read addr size, turns := n } :: rest) :
      StepDoes s (runEngine n ((s.arrive rest n).respond r))
  /-- A write at any place but `CMD`. -/
  | write (addr size n : Nat) (v : Word) (rest : List HostStep)
      (h : s.host = { access := .write addr size v, turns := n } :: rest) (hp : place s.W addr size ≠ .cmd) :
      StepDoes s (runEngine n ((s.arrive rest n).busWrite (place s.W addr size) v))
  /-- A command is accepted and decoded. -/
  | command (addr size n : Nat) (v : Word) (rest : List HostStep) (i : Instr) (t : State)
      (h : s.host = { access := .write addr size v, turns := n } :: rest) (hp : place s.W addr size = .cmd)
      (idle : s.phase = .idle) (hd : decode v = .ok i) (ht : exec i ((s.arrive rest n).accept v) = .next t) :
      StepDoes s t
  /-- An illegal command is accepted. -/
  | illegal (addr size n : Nat) (v : Word) (rest : List HostStep) (r : Reject)
      (h : s.host = { access := .write addr size v, turns := n } :: rest) (hp : place s.W addr size = .cmd)
      (idle : s.phase = .idle) (hd : decode v = .error r) :
      StepDoes s (((s.arrive rest n).accept v).raiseFault .illegalCmd)
  /-- A command is dropped. -/
  | dropped (addr size n : Nat) (v : Word) (rest : List HostStep)
      (h : s.host = { access := .write addr size v, turns := n } :: rest) (hp : place s.W addr size = .cmd)
      (notIdle : s.phase ≠ .idle) :
      StepDoes s (runEngine n (s.arrive rest n).dropWrite)

theorem step_does {s t : State} (h : step s = .next t) : StepDoes s t := by
  cases hh : s.host with
  | nil =>
    rw [step_nil hh] at h
    cases h
    exact .engine hh
  | cons e rest =>
    obtain ⟨a, n⟩ := e
    rw [step_cons hh] at h
    rcases access_cases a ((s.setHost rest).grant n) with
      ⟨rfl, h1⟩ | ⟨addr, size, rfl, h1⟩ | ⟨addr, size, v, rfl, hp, h1⟩ | ⟨addr, size, v, rfl, hp, h1⟩
    · rw [h1] at h; cases h; exact .reset n rest hh
    · rw [h1] at h
      obtain ⟨r, hr⟩ := ((s.setHost rest).grant n).busRead_eq addr size
      rw [hr] at h; cases h
      exact .read addr size n rest r hh
    · rw [h1] at h
      rcases commandWrite_cases v ((s.setHost rest).grant n) with ⟨hi, i, hd, hc⟩ | ⟨hi, r, hd, hc⟩ | ⟨hi, hc⟩
      · rw [hc] at h
        exact .command addr size n v rest i t hh hp hi hd h
      · rw [hc] at h; cases h
        exact .illegal addr size n v rest r hh hp hi hd
      · rw [hc] at h; cases h
        exact .dropped addr size n v rest hh hp hi
    · rw [h1] at h; cases h
      exact .write addr size n v rest hh hp

/-! The accesses of a host program (rules R98, R214). -/

/-- A performed access is that access, with its events granted and the script as it was. -/
theorem State.perform_eq {s t : State} {e : HostStep} (h : access e.access (s.grant e.turns) = .next t) :
    s.perform e = t := by
  have : step (s.setHost (e :: s.host)) = .next t := by rw [step_cons rfl]; exact h
  simp only [State.perform, this]

/-- A read that is answered leaves its data, and then the engine events fall (rule R53). -/
theorem State.perform_read {s : State} {addr n : Nat} {v : Word} (h : s.memRead addr 4 = some v) :
    s.perform { access := .read addr 4, turns := n } = runEngine n ((s.grant n).respond (.data v)) := by
  have hr : (s.grant n).memRead addr 4 = some v := h
  exact State.perform_eq (by simp only [access, State.busRead, hr, afterTurns]; rfl)

/-- What a read left is still there after the engine events that follow. -/
theorem State.lastData_read (s : State) (n : Nat) (v : Word) :
    (runEngine n (s.respond (.data v))).lastData = some v := by
  simp only [State.lastData, (runEngine_fixed _ _).resp, State.respond_resp]

/-- An accepted command word, legal or not: what the issue answers (rules R96, R205). -/
theorem State.perform_command {s t : State} {w : Word} {n : Nat} (h : commandWrite w (s.grant n) = .next t) :
    s.perform { access := .write 0x000 4 w, turns := n } = t :=
  State.perform_eq h

/-- One poll (rule R214): the loop ends on a word without `BUSY`, else it goes on. -/
theorem pollStatus_cons (n : Nat) (rest : List Nat) (s : State) :
    pollStatus (n :: rest) s =
      if s.busy then pollStatus rest (runEngine n ((s.grant n).respond (.data s.statusWord)))
      else some (s.statusWord, runEngine n ((s.grant n).respond (.data s.statusWord))) := by
  have h : s.perform { access := .read 0x004 4, turns := n }
      = runEngine n ((s.grant n).respond (.data s.statusWord)) := State.perform_read rfl
  have hb : s.statusWord.getLsbD 0 = s.busy := by
    simp [State.statusWord, flagAt]
    cases s.busy <;> cases s.done <;> cases s.err <;> cases s.prime <;> cases s.noinv <;> cases s.rngValid <;>
      cases s.drop <;> simp
  simp only [pollStatus, h, State.lastData_read, hb]

end Sys2Proof.Machine
end

