-- ==== Sys2Proof/Machine/HostSoftware.lean ====
section
/-! DEFINITION. Host software that drives the block (46_host_sequences.md), as functions on integers, bytes and
characters. It is OUTSIDE the block ("described but outside the block", rule R5): no step of the machine uses it (log
entry 19). `powMod` and `modInverse` are what the block's `MODEXP` and `MODINV` return (rules R121, R141). Where the rules
leave a point of the host software unstated, the docstring names the log entry (21 to 31) that marks the choice. -/

namespace Sys2Proof.Machine

/-- `k` iterations of the exponentiation loop (rule R123). -/
def expIterate : Nat → ExpWork → ExpWork
  | 0, w => w
  | k + 1, w => expIterate k (expStep w)

/-- `powMod(base, exponent, modulus)`: `bitlen(e)` iterations, then `acc` (rules R121, R123). With modulus 0 the block faults
`ZERO_MODULUS` and the spec does not say what the host then does: a free value (DESIGN CHOICE, log entry 21). -/
def powMod (b e m : Nat) : Nat :=
  if m = 0 then Config.powModOfZero b e else (expIterate (bitlen e) (expStart b e m)).acc

/-- The extended loop, iterated until `r1 = 0` (rule R142), at most `fuel` times. -/
def invIterate : (fuel : Nat) → InvWork → InvWork
  | 0, w => w
  | fuel + 1, w => if w.r1 = 0 then w else invIterate fuel (invStep w)

/-- What `MODINV` leaves for `n >= 1`: the result and `NOINV` (rule R141). `r1` starts at `a` and strictly decreases, so `a`
iterations are enough. -/
def modInverse (a n : Nat) : Nat × Bool :=
  let w := invIterate a (invStart a n)
  (invResult w, noInverse w.r)

/-- A public key (rule R215); `username` as its characters. -/
structure PublicKey where
  n : Nat
  e : Nat
  s : Nat
  username : List Char
  deriving DecidableEq, Repr

/-- A private key (rule R215). -/
structure PrivateKey where
  n : Nat
  d : Nat
  deriving DecidableEq, Repr

/-- The four error kinds of rule R235. -/
inductive SoftwareError where
  | malformedKeyFile
  | noModularInverse
  | signatureVerificationFailed
  | malformedCiphertextToken
  deriving DecidableEq, Repr

/-- `(p-1)(q-1)` (rules R18, R220). -/
def totient (p q : Nat) : Nat := (p - 1) * (q - 1)

/-- Bounds of the split point of step 1 (rule R219): `lo = nbits div 4`, `hi = (3 * nbits) div 4`. -/
def splitBounds (nbits : Nat) : Nat × Nat := (nbits / 4, 3 * nbits / 4)

/-- "Accept only if `bitlength(n) == nbits` exactly" (rules R218, R219). -/
def acceptModulus (nbits p q : Nat) : Bool := bitlen (p * q) == nbits

/-- "Accept when `gcd(e, totient) == 1`" (rules R218, R220). -/
def acceptExponent (e tot : Nat) : Bool := Nat.gcd e tot == 1

/-- Step 4 (rule R221): `MODINV` on `e` and the totient; "the host checks `STATUS.NOINV == 0` and raises `NoModularInverse`
otherwise". The totient is at least 1, since a prime search returns 2 or more (rule R174). -/
def deriveExponent (e tot : Nat) : Except SoftwareError Nat :=
  if (modInverse e tot).2 then .error .noModularInverse else .ok (modInverse e tot).1

/-- Block size `k = floor((bitlength(n)-1)/8)` (rule R225). -/
def blockSize (n : Nat) : Nat := (bitlen n - 1) / 8

/-- "The Codec is usable only when `k >= 2`" (rule R225). -/
def codecUsable (n : Nat) : Bool := decide (2 ≤ blockSize n)

/-- A byte buffer as a big-endian unsigned integer (rule R227). -/
def bigEndian (bytes : List (BitVec 8)) : Nat := bytes.foldl (fun v b => v * 256 + b.toNat) 0

/-- The integer of one chunk: the sentinel `0xFF`, then the payload, big-endian (rules R226, R227). -/
def chunkInteger (payload : List (BitVec 8)) : Nat := bigEndian (0xFF :: payload)

/-- The last `len` bytes of `v`, big-endian. -/
def bytesOf : (len : Nat) → (v : Nat) → List (BitVec 8)
  | 0, _ => []
  | len + 1, v => bytesOf len (v / 256) ++ [BitVec.ofNat 8 v]

/-- "Exactly as many bytes as its value requires", `ceil(bitlen(m)/8)`, big-endian (rule R228). -/
def exportBytes (m : Nat) : List (BitVec 8) := bytesOf ((bitlen m + 7) / 8) m

/-- The plaintext cut into chunks of `size` bytes, the last one possibly short, none for an empty stream (rule R227);
`fuel` bounds the number of chunks. -/
def chunks (size : Nat) : (fuel : Nat) → List (BitVec 8) → List (List (BitVec 8))
  | 0, _ => []
  | fuel + 1, bytes =>
    if bytes.isEmpty then [] else bytes.take size :: chunks size fuel (bytes.drop size)

/-- The token of one chunk (rule R227). -/
def encryptChunk (key : PublicKey) (payload : List (BitVec 8)) : Nat :=
  powMod (chunkInteger payload) key.e key.n

/-- The payload of one token: its integer exported, the leading sentinel byte discarded (rule R228). The rule is silent
on a first byte other than `0xFF`, which is dropped unchecked, and on the integer 0, which exports no byte and gives no
payload (DESIGN CHOICE, log entry 30). -/
def decryptToken (key : PrivateKey) (c : Nat) : List (BitVec 8) := (exportBytes (powMod c key.d key.n)).drop 1

/-- Encrypt (rule R227): one token per chunk of up to `k-1` bytes; none where the Codec is not usable (rule R225; log
entry 27). -/
def encrypt (key : PublicKey) (plaintext : List (BitVec 8)) : Option (List Nat) :=
  if codecUsable key.n then
    some ((chunks (blockSize key.n - 1) plaintext.length plaintext).map (encryptChunk key))
  else none

/-- Decrypt (rule R228), token by token; none where the Codec is not usable (rule R225; log entry 27). -/
def decrypt (key : PrivateKey) (tokens : List Nat) : Option (List (BitVec 8)) :=
  if codecUsable key.n then some (tokens.map (decryptToken key)).flatten else none

/-- `sign(m, d, n) = powMod(m, d, n)` (rule R230). -/
def sign (m d n : Nat) : Nat := powMod m d n

/-- `verify(m, s, e, n)`: "accept iff `powMod(s, e, n) == m`" (rule R231). -/
def verify (m s e n : Nat) : Bool := powMod s e n == m

/-- A base-62 digit: `'0'..'9' = 0..9`, `'a'..'z' = 10..35`, `'A'..'Z' = 36..61` (rule R232); none for any other character,
of which the rule says nothing. -/
def digit62 (c : Char) : Option Nat :=
  let v := c.toNat
  if 48 ≤ v ∧ v ≤ 57 then some (v - 48)
  else if 97 ≤ v ∧ v ≤ 122 then some (v - 97 + 10)
  else if 65 ≤ v ∧ v ≤ 90 then some (v - 65 + 36)
  else none

/-- A string as a base-62 integer, first character most significant, the empty string 0 (rule R232). -/
def base62 (cs : List Char) : Option Nat :=
  cs.foldl (fun v c => v.bind fun a => (digit62 c).map fun d => a * 62 + d) (some 0)

/-- The owner's signature `s = powMod(base62(username), d, n)` (rules R215, R222). The behaviour for an identity of `n` or
more is unstated (rule R232): the formula is applied as it stands, and such a signature never verifies (rule R231) (DESIGN
CHOICE, log entry 22). None where the username has no base-62 value (log entry 23). -/
def selfSignature (username : List Char) (d n : Nat) : Option Nat :=
  (base62 username).map fun m => sign m d n

/-- The embedded signature against the embedded identity (rules R231, R234). A username with a character outside base-62
has no value and does not verify; the spec is silent there (DESIGN CHOICE, log entry 23). -/
def signatureVerifies (key : PublicKey) : Bool :=
  match base62 key.username with
  | none => false
  | some m => verify m key.s key.e key.n

/-- A hexadecimal digit's value (rule R233); letter case "is not stated in D0", so a reader takes both (DESIGN CHOICE, log entry 19). -/
def digit16 (c : Char) : Option Nat :=
  let v := c.toNat
  if 48 ≤ v ∧ v ≤ 57 then some (v - 48)
  else if 97 ≤ v ∧ v ≤ 102 then some (v - 97 + 10)
  else if 65 ≤ v ∧ v ≤ 70 then some (v - 65 + 10)
  else none

/-- A line read as a hexadecimal integer, most significant digit first (rule R233); none when it holds another character.
The behaviour on an EMPTY line is not in the source (91_not_in_source.md): the model takes it as no integer, in a
field or token that is one (DESIGN CHOICE, log entry 24). Nor is the token syntax: leading zeros are taken, and spaces make it no integer (DESIGN CHOICE, log entry
31). -/
def parseHex (line : List Char) : Option Nat :=
  if line.isEmpty then none
  else line.foldl (fun v c => v.bind fun a => (digit16 c).map fun d => a * 16 + d) (some 0)

/-- The hexadecimal digits of `v` before those in `acc`, at most `fuel` of them. -/
def hexDigits : (fuel : Nat) → (v : Nat) → (acc : List Char) → List Char
  | 0, _, acc => acc
  | fuel + 1, v, acc =>
    let c := Char.ofNat (if v % 16 < 10 then 48 + v % 16 else 87 + v % 16)
    if v / 16 = 0 then c :: acc else hexDigits fuel (v / 16) (c :: acc)

/-- An integer as hexadecimal text, "no leading sign, no padding" (rule R233); lower case is the model's choice (log
entry 19). -/
def hexText (v : Nat) : List Char := hexDigits (v + 1) v []

/-- Public key file: "4 lines" (rule R233). -/
def publicKeyLines (key : PublicKey) : List (List Char) :=
  [hexText key.n, hexText key.e, hexText key.s, key.username]

/-- Private key file: "2 lines" (rule R233). -/
def privateKeyLines (key : PrivateKey) : List (List Char) := [hexText key.n, hexText key.d]

/-- Loading a public key; `MalformedKeyFile` for a "missing/unparseable field" (rule R235). Nothing is stated of lines after
the fourth: they are ignored (DESIGN CHOICE, log entry 25). The fourth line is a raw string, and an EMPTY one, on which the
source is silent too, is the empty username (DESIGN CHOICE, log entry 24). -/
def readPublicKey (lines : List (List Char)) : Except SoftwareError PublicKey :=
  match lines with
  | n :: e :: s :: username :: _ =>
    match parseHex n, parseHex e, parseHex s with
    | some n, some e, some s => .ok { n, e, s, username }
    | _, _, _ => .error .malformedKeyFile
  | _ => .error .malformedKeyFile

/-- Loading a private key (rules R233, R235). Nothing is stated of lines after the second: they are ignored (DESIGN CHOICE,
log entry 25). -/
def readPrivateKey (lines : List (List Char)) : Except SoftwareError PrivateKey :=
  match lines with
  | n :: d :: _ =>
    match parseHex n, parseHex d with
    | some n, some d => .ok { n, d }
    | _, _ => .error .malformedKeyFile
  | _ => .error .malformedKeyFile

/-- Ciphertext stream: "one hexadecimal integer per line" (rule R233). -/
def ciphertextLines (tokens : List Nat) : List (List Char) := tokens.map hexText

/-- Decrypting a ciphertext stream line by line until none remain (rules R228, R229): the bytes written, and
`MalformedCiphertextToken` at the first line that is no integer, "fatal, not skipped or recovered" (rule R235). What the
tokens before it gave has been written by then. -/
def decryptLines (key : PrivateKey) : List (List Char) → List (BitVec 8) × Option SoftwareError
  | [] => ([], none)
  | line :: rest =>
    match parseHex line with
    | none => ([], some .malformedCiphertextToken)
    | some c => (decryptToken key c ++ (decryptLines key rest).1, (decryptLines key rest).2)

/-- What a stream entry point answers, "`Unit | Error`" (rule R234), with what it has written to its output stream. -/
inductive StreamResult (α : Type) where
  /-- `Unit`. -/
  | unit (output : List α)
  /-- `Error` (rule R235), after `output` was written. -/
  | error (kind : SoftwareError) (output : List α)
  /-- The Codec is not usable with this key (rule R225), and rule R235 has no error kind for it: an answer of its own, with
  nothing written (DESIGN CHOICE, log entry 27). -/
  | codecUnusable
  deriving DecidableEq, Repr

/-- `encryptStream(publicKeyPath, input, output)` (rule R234), from the lines of the key file: load the key; "fails closed if
the embedded signature does not verify against the embedded identity before any plaintext is consumed"; encrypt; one
hexadecimal token per line. -/
def encryptStream (keyFile : List (List Char)) (input : List (BitVec 8)) : StreamResult (List Char) :=
  match readPublicKey keyFile with
  | .error kind => .error kind []
  | .ok key =>
    if signatureVerifies key then
      match encrypt key input with
      | some tokens => .unit (ciphertextLines tokens)
      | none => .codecUnusable
    else .error .signatureVerificationFailed []

/-- `decryptStream(privateKeyPath, input, output)` (rules R228, R229, R234, R235), from the lines of the key file. -/
def decryptStream (keyFile : List (List Char)) (input : List (List Char)) : StreamResult (BitVec 8) :=
  match readPrivateKey keyFile with
  | .error kind => .error kind []
  | .ok key =>
    if codecUsable key.n then
      match decryptLines key input with
      | (output, none) => .unit output
      | (output, some kind) => .error kind output
    else .codecUnusable

end Sys2Proof.Machine
end

