-- ==== Sys2Proof/Machine/KeyGenerator.lean ====
section
/-! DEFINITION. The key generator (rules R215, R218 to R222) and the entry point `generateKeyPair` (rule R234), host software
OUTSIDE the block (rule R5; log entry 19), as relations from the random source before to the result and the source after,
on a block of width `W`. None of its loops has a bound (rule R218): where a loop does not end there is no derivation. -/

namespace Sys2Proof.Machine

/-- What `generate` returns (rule R218). -/
structure KeyMaterial where
  p : Nat
  q : Nat
  n : Nat
  e : Nat
  d : Nat
  deriving DecidableEq, Repr

/-- What the block can be asked for: "`nbits <= W` ... and `hi <= W`" (rule R219), beyond which `MAKEPRIME` or `RNDBITS` may
fault `RANGE`; and `iterations` that the 32-bit `ITER` can hold (rule R34; unstated beyond it). In the other cases no key
is generated (DESIGN CHOICE, log entry 28). -/
abbrev requestFits (W nbits k : Nat) : Prop := nbits ≤ W ∧ (splitBounds nbits).2 ≤ W ∧ k < 2 ^ 32

/-- One attempt of step 1 (rule R219): the split point, then `p`'s search, then `q`'s search. -/
def SplitAttempt (W nbits k : Nat) (st : Source) (p q : Nat) (st' : Source) : Prop :=
  let lo := (splitBounds nbits).1
  let hi := (splitBounds nbits).2
  let split := drawUniform st (hi - lo + 1)
  let pbits := lo + split.2
  requestFits W nbits k ∧ ∃ st1, SearchGives pbits k split.1 p st1 ∧ SearchGives (nbits - pbits) k st1 q st'

/-- Step 1: attempts until "`bitlength(n) == nbits` exactly" (rules R218, R219). -/
inductive PrimesGive (W nbits k : Nat) : Source → Nat → Nat → Source → Prop where
  | accepted (st st' : Source) (p q : Nat) (attempt : SplitAttempt W nbits k st p q st')
      (exact : acceptModulus nbits p q = true) : PrimesGive W nbits k st p q st'
  | retried (st st1 st' : Source) (p q p' q' : Nat) (attempt : SplitAttempt W nbits k st p' q' st1)
      (inexact : acceptModulus nbits p' q' = false) (rest : PrimesGive W nbits k st1 p q st') :
      PrimesGive W nbits k st p q st'

/-- Step 3: a candidate `e = bits(nbits)` at a time, until "`gcd(e, totient) == 1`" (rule R220). -/
inductive ExponentGives (nbits tot : Nat) : Source → Nat → Source → Prop where
  | accepted (st : Source) (coprime : acceptExponent (drawBits st nbits).2 tot = true) :
      ExponentGives nbits tot st (drawBits st nbits).2 (drawBits st nbits).1
  | retried (st st' : Source) (e : Nat) (shared : acceptExponent (drawBits st nbits).2 tot = false)
      (rest : ExponentGives nbits tot (drawBits st nbits).1 e st') : ExponentGives nbits tot st e st'

/-- Steps 4 and 5 (rules R218, R221): the private exponent, or `NoModularInverse`. -/
def keyMaterial (p q e : Nat) : Except SoftwareError KeyMaterial :=
  (deriveExponent e (totient p q)).map fun d => { p, q, n := p * q, e, d }

/-- `generate(nbits, iterations)`: the five steps of rule R218. -/
def Generates (W nbits k : Nat) (st : Source) (result : Except SoftwareError KeyMaterial) (st' : Source) : Prop :=
  ∃ p q e st1, PrimesGive W nbits k st p q st1 ∧ ExponentGives nbits (totient p q) st1 e st'
    ∧ result = keyMaterial p q e

/-- A generated pair and the two key files written (rules R215, R233, R234). -/
structure GeneratedPair where
  pub : PublicKey
  priv : PrivateKey
  publicFile : List (List Char)
  privateFile : List (List Char)
  deriving DecidableEq, Repr

/-- The pair of a key with its self-signature `s`, and its files (rules R215, R222, R233). -/
def pairOf (key : KeyMaterial) (s : Nat) (username : List Char) : GeneratedPair :=
  let pub : PublicKey := { n := key.n, e := key.e, s, username }
  let priv : PrivateKey := { n := key.n, d := key.d }
  { pub, priv, publicFile := publicKeyLines pub, privateFile := privateKeyLines priv }

/-- What `generateKeyPair` answers for what `generate` returned: the pair with its self-signature (rule R222), or the error,
and then no file is written (log entry 29). -/
def PairGives (username : List Char) : Except SoftwareError KeyMaterial → Except SoftwareError GeneratedPair → Prop
  | .error kind, result => result = .error kind
  | .ok key, result => ∃ s, selfSignature username key.d key.n = some s ∧ result = .ok (pairOf key s username)

/-- `generateKeyPair(bits, iterations, seed, publicPath, privatePath) -> KeyPair | Error` (rules R222, R234): it "begins with
`LOAD R0, seed; SEED R0`", which needs a source not yet initialised (rule R189), "and ends with `RNGCLR`": `rng` is the
block's source before, `rng'` after. Where the username comes from is not in the source, whose argument list has none
(conflict C2): the model takes it as a further argument (DESIGN CHOICE, log entry 26). `RNGCLR` after an error, too, is the
model's choice (log entry 29). -/
def GeneratesKeyPair (W nbits k seed : Nat) (username : List Char) (rng : Option Source)
    (result : Except SoftwareError GeneratedPair) (rng' : Option Source) : Prop :=
  rng = none ∧ seed < 2 ^ W
    ∧ (∃ generated st', Generates W nbits k (Config.rngSeed seed) generated st' ∧ PairGives username generated result)
    ∧ rng' = none

end Sys2Proof.Machine
end

