-- ==== Sys2Proof/Tests/Slice0.lean ====
section
/-! SUPPORT. The model's own tests, each about one step or one command on a small state, with expected values from the
tables and worked examples of the spec (95_test_vectors.md unless another rule is named); and, for every statement with
hypotheses, a witness that meets them. -/

namespace Sys2Proof.Tests

open Sys2Proof Sys2Proof.Machine

/-! Small states. -/

/-- A block of width 64 after reset, with `R0`, `R1`, `R2` loaded. -/
def loaded (a b m : Nat) : State := (((State.resetFor 64).setReg 0 a).setReg 1 b).setReg 2 m

/-- Registers for the witnesses: `R0..R7 = 47, 47, 221, 0, 5, 9, 7, 1`. -/
def base : State :=
  { State.resetFor 64 with regs := #v[47, 47, 221, 0, 5, 9, 7, 1], iter := 1, bits := 8 }

/-- The state with a valid source that answers the values `vs` first. -/
def drawing (vs : List Nat) (s : State) : State := s.setRng (some { replay := vs, code := 0 })

/-- A `GCD` in flight. -/
def running : State := base.runJob (.gcd 0 (gcdStart 1071 462))

/-- Phase `FAULT` with code 2. -/
def faulted : State := base.raiseFault .zeroModulus

/-- The access `a`, then `n` engine events, is next. -/
def facing (a : Access) (n : Nat) (s : State) : State := s.setHost [{ access := a, turns := n }]

/-- The state an outcome carries; `s` where it carries none. -/
def stateOf (s : State) (o : Result) : State :=
  match o with
  | .next t => t
  | .fault _ => s
  | .refused _ => s

/-- The state after the command with `n` engine events. -/
def ran (i : Instr) (n : Nat) (s : State) : State := stateOf s (exec i (s.grant n))

/-- The state after one step. -/
def stepped (s : State) : State := stateOf s (step s)

/-! WELL FORMED. For each check a term that it refuses (rules R8, R59, R83, R96, R97). -/

theorem test_wf_unassigned_opcode : wordWellFormed 0x00000007 = false := by decide
theorem test_wf_reserved_bits : wordWellFormed 0x00100001 = false := by decide
theorem test_wf_unused_rm : wordWellFormed 0x00020003 = false := by decide
theorem test_wf_unused_rd : wordWellFormed 0x00000100 = false := by decide
theorem test_wf_unused_ra : wordWellFormed 0x0000080A = false := by decide
theorem test_wf_unused_rb : wordWellFormed 0x00004004 = false := by decide
theorem test_wf_legal_word : wordWellFormed 0x00044302 = true := by decide
theorem test_wf_access_narrow : accessWellFormed 64 0x1000 1 = false := by decide
theorem test_wf_access_misaligned : accessWellFormed 64 0x1002 4 = false := by decide
theorem test_wf_access_beyond_end : accessWellFormed 64 0x1040 4 = false := by decide
theorem test_wf_access_last : accessWellFormed 64 0x103C 4 = true := by decide
theorem test_wf_width_not_multiple : ¬legalW 72 := by decide
theorem test_wf_width_too_small : ¬legalW 32 := by decide
theorem test_wf_width_no_param : ¬legalW (2 ^ 32) := by decide

/-! DECODING. The fields written out bit by bit in the order `ZERO RM RB RA RD OPC` of rule R81. -/

theorem test_decode_modexp :
    decode (0b000000000000#12 ++ 0b010#3 ++ 0b001#3 ++ 0b000#3 ++ 0b011#3 ++ 0b00000010#8)
      = .ok (.modexp 3 0 1 2) := by decide
theorem test_decode_modmul :
    decode (0b000000000000#12 ++ 0b010#3 ++ 0b100#3 ++ 0b100#3 ++ 0b100#3 ++ 0b00000001#8)
      = .ok (.modmul 4 4 4 2) := by decide
theorem test_decode_gcd :
    decode (0b000000000000#12 ++ 0b000#3 ++ 0b001#3 ++ 0b000#3 ++ 0b010#3 ++ 0b00000011#8)
      = .ok (.gcd 2 0 1) := by decide
theorem test_decode_modinv :
    decode (0b000000000000#12 ++ 0b100#3 ++ 0b000#3 ++ 0b001#3 ++ 0b101#3 ++ 0b00000100#8)
      = .ok (.modinv 5 1 4) := by decide
theorem test_decode_isprime :
    decode (0b000000000000#12 ++ 0b000#3 ++ 0b000#3 ++ 0b110#3 ++ 0b000#3 ++ 0b00000101#8)
      = .ok (.isprime 6) := by decide
theorem test_decode_makeprime :
    decode (0b000000000000#12 ++ 0b000#3 ++ 0b000#3 ++ 0b000#3 ++ 0b111#3 ++ 0b00000110#8)
      = .ok (.makeprime 7) := by decide
theorem test_decode_seed :
    decode (0b000000000000#12 ++ 0b000#3 ++ 0b000#3 ++ 0b011#3 ++ 0b000#3 ++ 0b00001000#8)
      = .ok (.seed 3) := by decide
theorem test_decode_rngclr :
    decode (0b000000000000#12 ++ 0b000#3 ++ 0b000#3 ++ 0b000#3 ++ 0b000#3 ++ 0b00001001#8)
      = .ok .rngclr := by decide
theorem test_decode_rndbits :
    decode (0b000000000000#12 ++ 0b000#3 ++ 0b000#3 ++ 0b000#3 ++ 0b001#3 ++ 0b00001010#8)
      = .ok (.rndbits 1) := by decide
theorem test_decode_rnduni :
    decode (0b000000000000#12 ++ 0b000#3 ++ 0b000#3 ++ 0b011#3 ++ 0b010#3 ++ 0b00001011#8)
      = .ok (.rnduni 2 3) := by decide
theorem test_decode_nop :
    decode (0b000000000000#12 ++ 0b000#3 ++ 0b000#3 ++ 0b000#3 ++ 0b000#3 ++ 0b00000000#8) = .ok .nop := by decide

theorem test_reject_unassigned : decode 0x00000007 = .error .unassignedOpcode := by decide
theorem test_reject_reserved : decode 0x80000009 = .error .reservedBits := by decide
theorem test_reject_unused : decode 0x00020003 = .error .unusedField := by decide
theorem test_table_word_too_long : decodeTableWord 32 (2 ^ 32) = none := by decide

/-- The words of program 1. -/
theorem test_encode_program1 :
    encode (.gcd 4 0 1) = 0x00004403 ∧ encode (.modinv 5 0 1) = 0x00020504
      ∧ encode (.modexp 6 3 0 2) = 0x00041E02 ∧ encode (.modmul 4 0 5 1) = 0x00034401 := by decide

/-- Rule R98. -/
theorem test_asm : (Instr.modexp 3 0 1 2).asm = "MODEXP R3, R0, R1, R2" ∧ Instr.rngclr.asm = "RNGCLR" := by
  decide

/-- Rule R99: a pseudo-command has the word of its real command. -/
theorem test_pseudo_sqrmod : encode (pseudoSqrmod 4 4 2) = 0x00052401 := by decide

/-! COMMANDS: at most two tests each. -/

theorem test_nop : (ran .nop 1 base).done = true ∧ (ran .nop 1 base).statusWord = 0x00000002 := by decide
theorem test_nop_busy_before : (ran .nop 0 base).statusWord = 0x00000001 := by decide

theorem test_modmul_wide :
    (ran (.modmul 3 0 1 2) 1 (loaded 0xFFFFFFFFFFFFFFFF 0xFFFFFFFFFFFFFFFF 0xFFFFFFFFFFFFFFC5)).reg 3
      = 0xD24 := by decide
theorem test_modmul_in_place : (ran (.modmul 0 0 0 2) 1 (loaded 188 5 221)).reg 0 = 205 := by decide

theorem test_modexp_trace :
    (ran (.modexp 3 0 1 2) 5 (loaded 4 13 497)).reg 3 = 445
      ∧ (ran (.modexp 3 0 1 2) 4 (loaded 4 13 497)).busy = true := by decide
theorem test_modexp_wide :
    (ran (.modexp 3 0 1 2) 65
      (loaded 0x123456789ABCDEF0 0xFEDCBA9876543210 0xFFFFFFFFFFFFFFC5)).reg 3 = 0xF693CA11B688A5F0 := by
  decide +kernel

theorem test_gcd_swap :
    (ran (.gcd 3 0 1) 5 (loaded 462 1071 0)).reg 3 = 21 ∧ (ran (.gcd 3 0 1) 4 (loaded 462 1071 0)).busy = true := by
  decide
theorem test_gcd_zero : (ran (.gcd 3 0 1) 1 (loaded 0 0 0)).reg 3 = 0 := by decide

theorem test_modinv_negative :
    (ran (.modinv 3 0 2) 5 (loaded 17 0 3120)).reg 3 = 2753
      ∧ (ran (.modinv 3 0 2) 5 (loaded 17 0 3120)).noinv = false := by decide
theorem test_modinv_none :
    (ran (.modinv 3 0 2) 3 (loaded 6 0 9)).reg 3 = 0
      ∧ (ran (.modinv 3 0 2) 3 (loaded 6 0 9)).statusWord = 0x00000012 := by decide

/-- 137 is a witness of 221's compositeness. -/
theorem test_isprime_composite :
    (ran (.isprime 0) 12 (drawing [135] ((loaded 221 0 0).setIter 1))).statusWord = 0x00000022 := by decide
/-- 174 is a liar for 221. -/
theorem test_isprime_liar :
    (ran (.isprime 0) 12 (drawing [172] ((loaded 221 0 0).setIter 1))).statusWord = 0x0000002A := by decide

/-- Step 8 of program 2: candidate 9 fails, candidate 11 passes twice. -/
theorem test_makeprime_retry :
    (ran (.makeprime 2) 30 (drawing [9, 4, 11, 4, 5] (((loaded 0 0 0).setIter 2).setBits 4))).reg 2 = 11 := by
  decide
/-- `BITS = 1`: candidate 1 is rejected, candidate 2 accepted (rule R174). -/
theorem test_makeprime_one_bit :
    (ran (.makeprime 2) 5 (drawing [0, 1] ((loaded 0 0 0).setBits 1))).reg 2 = 2 := by decide

theorem test_seed : (ran (.seed 0) 1 (loaded 42 0 0)).rng = some (Config.rngSeed 42) := rfl
theorem test_seed_twice : (ran (.seed 0) 1 (drawing [] (loaded 42 0 0))).errCode = 4 := by decide

theorem test_rngclr : (ran .rngclr 1 (drawing [] base)).rngValid = false := by decide
theorem test_rngclr_fault : (ran .rngclr 1 base).errCode = 3 := by decide

theorem test_rndbits : (ran (.rndbits 1) 1 (drawing [255] base)).reg 1 = 255 := by decide
theorem test_rndbits_range : (ran (.rndbits 1) 1 (drawing [] (base.setBits 65))).errCode = 5 := by decide

/-- `RD = RA` is allowed (rule R191). -/
theorem test_rnduni : (ran (.rnduni 0 0) 1 (drawing [46] base)).reg 0 = 46 := by decide
/-- `RNG_UNINIT` wins over `RANGE` (rule R255). -/
theorem test_rnduni_priority :
    (ran (.rnduni 1 3) 1 base).errCode = 3 ∧ (ran (.rnduni 1 3) 1 (drawing [] base)).errCode = 5 := by decide

/-! FAULTS AND THE WINDOW. -/

/-- Program 3, steps 2, 3 and 5. -/
theorem test_fault_word : (ran (.modexp 3 0 1 3) 1 base).statusWord = 0x00000204 := by decide
theorem test_drop_in_fault :
    (stepped (facing (.write 0x000 4 0) 1 faulted)).statusWord = 0x00000244 := by decide
theorem test_clear_err :
    (stepped (facing (.write 0x004 4 0x44) 0 (faulted.setDrop true))).statusWord = 0 := by decide

theorem test_window_2048 : place 2048 0x1314 4 = .limbOf 3 5 := by decide
theorem test_window_ends : place 64 0x103C 4 = .limbOf 7 1 ∧ place 64 0x1040 4 = .refused := by decide
theorem test_param : (State.resetFor 64).memRead 0x010 4 = some 64 := by decide
theorem test_read_high_limb : (loaded 0x123456789ABCDEF0 0 0).memRead 0x1004 4 = some 0x12345678 := by decide
theorem test_write_high_limb :
    (stepped (facing (.write 0x1004 4 1) 0 (loaded 0x123456789ABCDEF0 0 0))).reg 0 = 0x19ABCDEF0 := by decide

/-- The host's placing of a word: the command is the first step from reset (log entry 14). -/
theorem test_placed_nop : (stepped (State.reset.withFetchWord 32 0x00000000)).done = true := by decide
theorem test_placed_modexp : (stepped (State.reset.withFetchWord 32 0x00044302)).errCode = 2 := by decide

/-! A COMMAND LINE (rule R214): the loop polls until `BUSY = 0`. -/

/-- Step 5 of program 1, polled while it still runs: `GCD` of 17 and 3120 is 1. -/
theorem test_line_polls :
    (lineCommand 0x00004403 1 [2, 2, 9, 0] (loaded 17 3120 0)).map (fun r => (r.1, r.2.reg 4))
      = some (.completed, 1) := by decide
/-- Program 3, steps 2 and 3: the fault is told, and then the dropped `NOP` never ran. -/
theorem test_line_fault : (lineCommand 0x00044302 1 [0] (loaded 7 10 0)).map Prod.fst = some (.faulted 2) := by decide
theorem test_line_dropped :
    (lineCommand 0 1 [0] (((loaded 7 10 0).accept 0x00044302).raiseFault .zeroModulus)).map Prod.fst
      = some .neverRan := by decide
/-- With no event granted the loop goes on. -/
theorem test_line_still_busy : lineCommand 0x00004403 0 [0, 0] (loaded 17 3120 0) = none := by decide

/-! HOST SOFTWARE (section 4 of the test vectors). -/

theorem test_base62 : base62 ['b', 'o', 'b'] = some 43783 ∧ base62 ['1', '0'] = some 62 := by decide
theorem test_chunk : chunkInteger [0x48, 0x69] = 16730217 := by decide
theorem test_sign : sign 65 2753 3233 = 588 ∧ verify 65 589 17 3233 = false := by decide
/-- Rules R144, R221: the private exponent of program 1's key, and the defensive check. -/
theorem test_derive_exponent :
    deriveExponent 17 3120 = .ok 2753 ∧ deriveExponent 6 9 = .error .noModularInverse
      ∧ modInverse 5 1 = (0, false) := by decide
/-- Rule R225: the modulus 3233 gives `k = 1`, unusable; `s = powMod(base62("1"), d, n) = 1`. -/
theorem test_codec_unusable :
    encryptStream (publicKeyLines { n := 3233, e := 17, s := 1, username := ['1'] }) [0x48]
      = .codecUnusable := by decide
theorem test_fails_closed :
    encryptStream (publicKeyLines { n := 3233, e := 17, s := 2, username := ['1'] }) [0x48]
      = .error .signatureVerificationFailed [] := by decide
/-- A 32-bit modulus gives 2 payload bytes per block; with `d = 1` the token `FF 48 69` is its own block, and it is written
before the malformed line ends the stream (rules R228, R235). -/
theorem test_decrypt_before_malformed :
    decryptStream [hexText 0xFFFFFFFF, ['1']] [['f', 'f', '4', '8', '6', '9'], ['x']]
      = .error .malformedCiphertextToken [0x48, 0x69] := by decide
theorem test_missing_field : decryptStream [['1']] [] = .error .malformedKeyFile [] := by decide
/-- Rules R34, R219: a request wider than the block, or with more rounds than `ITER` can hold, is not admitted. -/
theorem test_request_fits :
    requestFits 64 64 (2 ^ 32 - 1) ∧ ¬requestFits 64 65 1 ∧ ¬requestFits 64 64 (2 ^ 32) := by decide
theorem test_hex : hexText 0xCA1 = ['c', 'a', '1'] ∧ parseHex ['C', 'a', '1'] = some 0xCA1 := by decide

/-! WITNESSES: for each statement with hypotheses, values that meet all of them, clause by clause. -/

theorem witness_encode_of_decode : decode 0x00080D04 = .ok (.modinv 5 1 4) := by decide

theorem witness_rows : Row.modexp.selects 0x00044302 = true := by decide

theorem witness_reset_values : legalW 64 ∧ legalW 2048 ∧ legalW (2 ^ 32 - 32) := by decide

theorem witness_reset_input :
    (facing .reset 3 running).host = { access := .reset, turns := 3 } :: [] := rfl

theorem witness_step_runs :
    (facing (.write 0x000 4 0x00004203) 2 base).host
        = { access := .write 0x000 4 0x00004203, turns := 2 } :: []
      ∧ (facing (.write 0x000 4 0x00004203) 2 base).phase = .idle
      ∧ decode 0x00004203 = .ok (.gcd 2 0 1) := by decide

theorem witness_illegal :
    (facing (.write 0x000 4 0x00020003) 2 base).phase = .idle
      ∧ decode 0x00020003 = .error .unusedField := by decide

theorem witness_command_dropped :
    (facing (.write 0x000 4 0) 1 running).busy = true ∧ (facing (.write 0x000 4 0) 1 faulted).err = true := by
  decide

theorem witness_block_waits :
    (base.host = [] ∧ base.busy = false) ∧ faulted.host = [] ∧ faulted.busy = false := by decide

theorem witness_window_reads :
    legalW base.W ∧ (0x014 % 4 = 0 ∧ 0x014 ≤ 0x014 ∧ 0x014 ≤ 0xFFC)
      ∧ (0xFFC % 4 = 0 ∧ 0x014 ≤ 0xFFC ∧ 0xFFC ≤ 0xFFC) ∧ 0 < base.W / 32 ∧ 1 < base.W / 32 := by decide

theorem witness_read :
    (facing (.read 0x1004 4) 1 running).host = { access := .read 0x1004 4, turns := 1 } :: [] := rfl

theorem witness_limb_write :
    legalW base.W ∧ base.busy = false ∧ 1 < base.W / 32
      ∧ (facing (.write (limbOffset 64 7 1) 4 9) 0 base).host
          = { access := .write (limbOffset base.W 7 1) 4 9, turns := 0 } :: [] := by decide

theorem witness_control_writes :
    ((facing (.write 0x008 4 9) 0 base).busy = false ∧ (facing (.write 0x00C 4 9) 0 faulted).busy = false)
      ∧ (0x010 % 4 = 0 ∧ 0x010 ≤ 0x010 ∧ 0x010 ≤ 0xFFC) ∧ 0xFFC % 4 = 0 := by decide

theorem witness_busy_writes :
    running.busy = true ∧ place running.W 0x000 4 = .cmd ∧ place running.W 0x008 4 = .iter
      ∧ place running.W 0x00C 4 = .bits ∧ place running.W 0x1000 4 = .limbOf 0 0
      ∧ place running.W 0x103C 4 = .limbOf 7 1 := by decide

theorem witness_not_disturbed :
    running.busy = true ∧ Access.write 0x1000 4 9 ≠ .reset
      ∧ ∃ t, step (facing (.write 0x1000 4 9) 0 running) = .next t := ⟨by decide, by decide, _, rfl⟩

theorem witness_bus_error :
    accessWellFormed base.W 0x1040 4 = false ∧ accessWellFormed base.W 0x1002 4 = false
      ∧ accessWellFormed base.W 0x000 1 = false := by decide

theorem witness_load :
    legalW base.W ∧ base.busy = false ∧ base.reg 3 < 2 ^ base.W ∧ 2 ^ 64 - 1 < 2 ^ base.W
      ∧ (base.setHost (lineLoad 64 3 (2 ^ 64 - 1) ++ [])).host = lineLoad base.W 3 (2 ^ 64 - 1) ++ [] := by decide

theorem witness_read_back : legalW base.W ∧ base.reg 2 < 2 ^ base.W := by decide

theorem witness_param : ∃ t, step (facing (.write 0x010 4 9) 0 base) = .next t := ⟨_, rfl⟩

theorem witness_status_write :
    (facing (.write 0x004 4 0x46) 0 faulted).host = { access := .write 0x004 4 0x46, turns := 0 } :: [] := rfl

theorem witness_err_stays :
    faulted.err = true ∧ (∃ t, step (facing (.write 0x000 4 0) 0 faulted) = .next t)
      ∧ (∃ t, step (facing .reset 0 faulted) = .next t)
      ∧ ∃ t, step (facing (.write 0x004 4 4) 0 faulted) = .next t := ⟨by decide, ⟨_, rfl⟩, ⟨_, rfl⟩, _, rfl⟩

theorem witness_fault_entry : ∃ t : State, t = (base.accept 0x00044302).raiseFault .zeroModulus := ⟨_, rfl⟩

theorem witness_fault_table :
    base.reg 3 = 0 ∧ base.rng = none ∧ (5 ≤ base.reg 4 ∧ 1 ≤ base.iter.toNat)
      ∧ (drawing [] base).rng.isSome = true ∧ (drawing [] (base.setBits 65)).W < (base.setBits 65).bits.toNat
      ∧ (drawing [] base).reg 3 = 0 := by decide

/-- A command that faults, one for each command that can. -/
theorem witness_no_other_fault :
    (ran (.modmul 0 0 0 3) 1 base).err = true ∧ (ran (.modexp 0 0 0 3) 1 base).err = true
      ∧ (ran (.modinv 0 0 3) 1 base).err = true ∧ (ran (.isprime 4) 1 base).err = true
      ∧ (ran (.makeprime 0) 1 base).err = true ∧ (ran (.seed 0) 1 (drawing [] base)).err = true
      ∧ (ran .rngclr 1 base).err = true ∧ (ran (.rndbits 0) 1 base).err = true
      ∧ (ran (.rnduni 0 3) 1 (drawing [] base)).err = true := by decide

theorem witness_modulus : base.reg 2 ≠ 0 ∧ base.reg 7 = 1 := by decide

theorem witness_modinv :
    (base.reg 2 ≠ 0 ∧ Nat.gcd (base.reg 0) (base.reg 2) = 1)
      ∧ (base.reg 5 ≠ 0 ∧ Nat.gcd (base.reg 3) (base.reg 5) ≠ 1)
      ∧ base.reg 7 ≠ 0 ∧ Nat.gcd (base.reg 3) (base.reg 7) = 1 := by decide

theorem witness_bezout :
    ((invStep^[4] (invStart 17 3120)).r1 = 0 ∧ ∀ j, j < 4 → (invStep^[j] (invStart 17 3120)).r1 ≠ 0)
      ∧ (invStep^[1] (invStart 1 1)).r1 = 0 ∧ ∀ j, j < 1 → (invStep^[j] (invStart 1 1)).r1 ≠ 0 := by decide

theorem witness_isprime_without_rounds :
    base.reg 3 = 0 ∧ base.reg 7 = 1 ∧ (loaded 4 0 0).reg 0 = 4 ∧ (loaded 2 3 0).reg 0 = 2
      ∧ (loaded 2 3 0).reg 1 = 3 ∧ 5 ≤ (loaded 5 0 0).reg 0 ∧ (loaded 5 0 0).iter.toNat = 0 := by decide

/-- Rule R168: 2 passes for 5. -/
theorem round_5_2 : RoundPasses 5 2 := ⟨2, 1, by decide, by decide, .inr (.inr ⟨1, by decide⟩)⟩

/-- Rule R168: 2 does not pass for 9. -/
theorem not_round_9_2 : ¬RoundPasses 9 2 := by
  rintro ⟨s, r, h, odd, pass⟩
  have hs : s ≤ 3 := by
    by_contra hc
    have : 2 ^ 4 ≤ 2 ^ s := Nat.pow_le_pow_right (by decide) (by omega)
    have : 1 ≤ r := by omega
    nlinarith
  interval_cases s
  · omega
  · omega
  · omega
  · obtain rfl : r = 1 := by omega
    rcases pass with h | h | ⟨j, h1, h2, h3⟩
    · revert h; decide
    · revert h; decide
    · have hj : j ≤ 2 := by omega
      interval_cases j <;> revert h3 <;> decide

theorem witness_test_gives_fast (rng : Option Source) :
    TestGives 4 1 rng false rng ∧ TestGives 3 1 rng true rng ∧ TestGives 9 0 rng true rng :=
  ⟨.inl (by simp), .inr (.inl (by simp)), .inr (.inr (.inl (by simp)))⟩

theorem witness_test_gives_prime :
    TestGives 5 1 (some ⟨[0], 0⟩) true (some ⟨[], 0⟩) :=
  .inr (.inr (.inr ⟨by decide, by decide, _, _, rfl, rfl, .inl ⟨round_5_2, rfl, rfl⟩⟩))

theorem witness_test_gives_composite :
    TestGives 9 2 (some ⟨[0], 0⟩) false (some ⟨[], 0⟩) :=
  .inr (.inr (.inr ⟨by decide, by decide, _, _, rfl, rfl, .inr ⟨not_round_9_2, rfl, rfl⟩⟩))

theorem witness_isprime_ends :
    ¬(base.rng = none ∧ 5 ≤ base.reg 3 ∧ 1 ≤ base.iter.toNat)
      ∧ ¬((drawing [] base).rng = none ∧ 5 ≤ (drawing [] base).reg 4 ∧ 1 ≤ base.iter.toNat) := by decide

theorem witness_isprime_prime :
    Nat.Prime ((drawing [] base).reg 4) ∧ (5 ≤ (drawing [] base).reg 4 → 1 ≤ (drawing [] base).iter.toNat →
      (drawing [] base).rng.isSome = true) := ⟨show Nat.Prime 5 by norm_num, fun _ _ => rfl⟩

theorem witness_six_and_nine :
    (loaded 6 9 0).reg 0 = 6 ∧ (drawing [] base).reg 5 = 9 ∧ 1 ≤ (drawing [] base).iter.toNat
      ∧ (drawing [] base).rng.isSome = true := by decide

/-- Candidate 4 is rejected, candidate 3 accepted. -/
theorem witness_search : SearchGives 3 1 ⟨[4, 3], 0⟩ 3 ⟨[], 0⟩ :=
  .rejected _ ⟨[3], 0⟩ _ _ (.inl ⟨by decide, rfl, rfl⟩)
    (.accepted ⟨[3], 0⟩ _ (.inr (.inl ⟨by decide, rfl, rfl⟩)))

/-- With `BITS = 0` no search ends (rule R175). -/
theorem witness_search_endless (st : Source) : ¬∃ c st', SearchGives 0 1 st c st' := by
  rintro ⟨c, st', h⟩
  induction h with
  | accepted st st' verdict =>
    have : candidate 0 (drawBits st 0).2 = 0 := Nat.mod_one _
    rw [this] at verdict
    simp [TestGives] at verdict
  | rejected st st1 st' c verdict rest ih => exact ih

theorem witness_makeprime_endless :
    (drawing [] (base.setBits 0)).bits.toNat = 0 ∧ (drawing [] (base.setBits 0)).bits.toNat ≤ base.W
      ∧ (drawing [] (base.setBits 0)).rng.isSome = true := by decide

/-- `BITS = 2` and `BITS = 1` both complete. -/
theorem witness_makeprime_range :
    (ran (.makeprime 0) 2 (drawing [3] (base.setBits 2))).busy = false
      ∧ (ran (.makeprime 0) 2 (drawing [1] (base.setBits 1))).busy = false
      ∧ (drawing [3] (base.setBits 2)).rng.isSome = true ∧ (base.setBits 2).bits.toNat ≤ base.W := by decide

theorem witness_source :
    base.rng = none ∧ (drawing [] base).rng = some ⟨[], 0⟩ ∧ (base.setBits 64).bits.toNat ≤ base.W
      ∧ base.reg 7 ≠ 0 := by decide

theorem witness_exec_next : ∃ t, exec (.modinv 0 1 2) (base.grant 9) = .next t := ⟨_, rfl⟩

theorem witness_frame_window :
    place base.W 0x008 4 ≠ .status ∧ place base.W 0x1038 4 = .limbOf 7 0
      ∧ (Instr.modinv 0 1 2).dest ≠ some 7 := by decide

theorem witness_run_invisible : running.busy = true ∧ (engineEvent running).busy = true := by decide

theorem witness_completion :
    (base.runJob .nop).busy = true ∧ (engineEvent (base.runJob .nop)).busy = false := by decide

theorem witness_rng_lifecycle :
    (engineEvent (base.runJob (.seed 1))).rngValid = true ∧ (base.runJob (.seed 1)).rngValid = false
      ∧ (engineEvent ((drawing [] base).runJob .rngclr)).rngValid = false
      ∧ ((drawing [] base).runJob .rngclr).rngValid = true := by decide

theorem witness_line_reports :
    base.phase = .idle ∧ base.drop = false
      ∧ (base.perform { access := .write 0x000 4 0x00000000, turns := 1 }).busy = false
      ∧ (lineCommand 0x00000000 1 [0] base).isSome = true := by decide

theorem witness_line_dropped : faulted.err = true ∧ (0x00000005 : Word) ≠ faulted.cmd := by decide

/-- An idle state that keeps the invariant, and one with a command in flight; each takes a step. -/
theorem witness_inv : base.Inv ∧ running.Inv := by
  refine ⟨⟨by decide, by decide, fun job h => ?_⟩, ⟨by decide, by decide, fun job h => ?_⟩⟩
  · simp [base, State.resetFor] at h
  · obtain rfl : Job.gcd 0 (gcdStart 1071 462) = job := by simpa [running, State.runJob, State.setPhase] using h
    exact ⟨by decide, by decide, rfl⟩

theorem witness_inv_step : ∃ t, step running = .next t := ⟨_, rfl⟩

end Sys2Proof.Tests
end

section
/-! PROOFS. The invariant of every step (rules R8, R16, R21, R124, R138, R142, R163, R254). -/

namespace Sys2Proof.Machine

/-! Arithmetic that the loops share. -/

/-- A legal width leaves room for the values 0, 1 and 2 (rule R8). -/
theorem two_lt_two_pow_of_legalW {W : Nat} (h : legalW W) : 2 < 2 ^ W :=
  calc 2 < 2 ^ 2 := by decide
    _ ≤ 2 ^ W := Nat.pow_le_pow_right (by decide) (by obtain ⟨-, h64, -⟩ := h; omega)

/-- Square-and-multiply on one bit of the exponent, modulo `m` (rule R124). -/
theorem mulmod_pow_halved (acc p x m : Nat) :
    (if x % 2 = 1 then mulmod acc p m else acc) * (mulmod p p m) ^ (x / 2) ≡ acc * p ^ x [MOD m] := by
  have sq : mulmod p p m ^ (x / 2) ≡ p ^ (2 * (x / 2)) [MOD m] := by
    rw [pow_mul, pow_two]
    exact (Nat.mod_modEq _ _).pow _
  split
  · next odd =>
    have hx : p ^ x = p * p ^ (2 * (x / 2)) := by rw [← pow_succ']; congr 1; omega
    rw [hx, ← mul_assoc]
    exact (Nat.mod_modEq _ _).mul sq
  · next even =>
    have hx : 2 * (x / 2) = x := by omega
    rw [hx] at sq
    exact sq.mul_left acc

/-- One division of Euclid's algorithm keeps the greatest common divisor (rule R138). -/
theorem gcd_remainder (a b : Nat) : Nat.gcd b (a % b) = Nat.gcd a b :=
  calc Nat.gcd b (a % b) = Nat.gcd (a % b) b := Nat.gcd_comm _ _
    _ = Nat.gcd b a := (Nat.gcd_rec b a).symm
    _ = Nat.gcd a b := Nat.gcd_comm _ _

/-! The loop of `MODEXP` (rules R123, R124). -/

theorem expStart_ok (b0 e : Nat) {m : Nat} (hm : 0 < m) : (expStart b0 e m).Ok :=
  ⟨hm, le_rfl, by simp [expStart], by simp [expStart]⟩

theorem ExpWork.Ok.step {w : ExpWork} (h : w.Ok) : (expStep w).Ok := by
  obtain ⟨hm, hx, hacc, hpow⟩ := h
  refine ⟨hm, (Nat.div_le_self _ _).trans hx, ?_, (mulmod_pow_halved w.acc w.p w.x w.m).trans hpow⟩
  simp only [expStep, mulmod]
  split
  · exact (Nat.mod_lt _ hm).trans_le (le_max_left _ _)
  · exact hacc

/-- The accumulator fits a register when the modulus does (rule R16). -/
theorem ExpWork.Ok.acc_lt {w : ExpWork} {W : Nat} (h : w.Ok) (hW : legalW W) (hm : w.m < 2 ^ W) :
    w.acc < 2 ^ W := by
  obtain ⟨-, -, hacc, -⟩ := h
  exact hacc.trans (max_lt hm (two_lt_two_pow_of_legalW hW))

/-- At the end of the loop the accumulator is the power, where the modulus is not 1 (rule R124). -/
theorem ExpWork.Ok.acc_eq {w : ExpWork} (h : w.Ok) (hm : 2 ≤ w.m) (hx : w.x = 0) : w.acc = w.b0 ^ w.e % w.m := by
  obtain ⟨-, -, hacc, hpow⟩ := h
  rw [max_eq_left hm] at hacc
  rw [← hpow, hx, pow_zero, mul_one, Nat.mod_eq_of_lt hacc]

/-! The loop of `GCD` (rule R138). -/

theorem gcdStart_ok {W a b : Nat} (ha : a < 2 ^ W) (hb : b < 2 ^ W) : (gcdStart a b).Ok W := ⟨ha, hb, rfl⟩

theorem GcdWork.Ok.step {W : Nat} {w : GcdWork} (h : w.Ok W) : (gcdStep w).Ok W := by
  obtain ⟨ha, hb, hgcd⟩ := h
  exact ⟨hb, (Nat.mod_le _ _).trans_lt ha, (gcd_remainder w.a w.b).trans hgcd⟩

/-! The loop of `MODINV` (rule R142). -/

theorem invStart_ok {W n : Nat} (a : Nat) (hn : 0 < n) (hnW : n < 2 ^ W) : (invStart a n).Ok W :=
  ⟨hn, hnW, le_max_right _ _, le_max_left _ _, Nat.gcd_comm _ _, by simp [invStart], by simp [invStart]⟩

/-- The new remainder is the old one modulo `r1`. -/
theorem invStep_r1 (w : InvWork) : (invStep w).r1 = w.r % w.r1 := by
  rw [Nat.mod_eq_sub_div_mul]; rfl

/-- The remainder that is subtracted is not more than `r`, so the integers see the same difference. -/
theorem invStep_r1_cast (w : InvWork) : ((invStep w).r1 : Int) = w.r - (w.r / w.r1 : Nat) * w.r1 :=
  Int.natCast_sub (Nat.div_mul_le_self _ _) |>.trans (by push_cast; rfl)

theorem invStep_t1 (w : InvWork) : (invStep w).t1 = w.t - (w.r / w.r1 : Nat) * w.t1 := rfl

theorem InvWork.Ok.step {W : Nat} {w : InvWork} (h : w.Ok W) : (invStep w).Ok W := by
  obtain ⟨hn, hnW, hr, hr1, hgcd, ht, ht1⟩ := h
  refine ⟨hn, hnW, hr1, ?_, ?_, ht1, Int.emod_eq_zero_of_dvd ?_⟩
  · rw [invStep_r1]
    exact (Nat.mod_le _ _).trans hr
  · rw [invStep_r1]
    exact (gcd_remainder w.r w.r1).trans hgcd
  · have combined := (Int.dvd_of_emod_eq_zero ht).sub ((Int.dvd_of_emod_eq_zero ht1).mul_left (w.r / w.r1 : Nat))
    have e : (w.a0 : Int) * (invStep w).t1 - (invStep w).r1
        = w.a0 * w.t - w.r - (w.r / w.r1 : Nat) * (w.a0 * w.t1 - w.r1) := by
      rw [invStep_r1_cast, invStep_t1]; ring
    exact e ▸ combined

/-- What `MODINV` writes fits a register (rules R16, R143). -/
theorem InvWork.Ok.invResult_lt {W : Nat} {w : InvWork} (h : w.Ok W) : invResult w < 2 ^ W := by
  obtain ⟨hn, hnW, -⟩ := h
  unfold invResult
  split
  · have : w.t % (w.n : Int) < w.n := Int.emod_lt_of_pos w.t (by omega)
    omega
  · omega

/-! The Miller–Rabin test (rules R160 to R165). -/

theorem fastVerdict_eq_none {n : Nat} (h : fastVerdict n = none) : 5 ≤ n := by
  unfold fastVerdict at h
  split_ifs at h
  omega

/-- The test as issue starts it, with a valid source where it will draw (rules R163, R251). -/
theorem testStart_ok {n k : Nat} {rng : Option Source} (h : 5 ≤ n → 1 ≤ k → rng.isSome = true) :
    (testStart n k).Ok rng := by
  unfold testStart PrimeTest.Ok
  cases hv : fastVerdict n with
  | some v => trivial
  | none =>
    have hn := fastVerdict_eq_none hv
    obtain ⟨hdec, hodd⟩ := decompose_spec (show 2 ≤ n by omega)
    by_cases hk : k = 0
    · simp [hk]
    · simp only [if_neg hk]
      have hk1 : 1 ≤ k := by omega
      exact ⟨⟨hn, le_rfl, hk1, hdec, hodd⟩, h hn hk1⟩

section
variable {t : PrimeTest} {rng : Option Source}

theorem roundFailed_ok (t : PrimeTest) (rng : Option Source) : (roundFailed t).Ok rng := trivial

/-- The next round, or the verdict after round `k`. -/
theorem roundPassed_ok (h : t.RoundOk) (hrng : rng.isSome = true) : (roundPassed t).Ok rng := by
  obtain ⟨hn, hi, hik, hdec, hodd⟩ := h
  unfold roundPassed
  split
  · next lt => exact ⟨⟨hn, Nat.le_add_left 1 t.i, lt, hdec, hodd⟩, hrng⟩
  · trivial

/-- A draw below `n - 3` is a witness (rules R160, R164). -/
theorem witnessDrawn_ok (h : t.RoundOk) (hrng : rng.isSome = true) {v : Nat} (hv : v < t.n - 3) :
    (witnessDrawn t v).Ok rng := by
  have hn : 5 ≤ t.n := h.1
  exact ⟨h, hrng, ⟨by simp [expStart], by simp only [expStart, witnessDrawn]; omega⟩, rfl, rfl,
    expStart_ok _ _ (by omega)⟩

/-- The inner `powMod` has ended with `y = a^r mod n` (rule R160). -/
theorem powEnded_ok (h : t.RoundOk) (hrng : rng.isSome = true) {a y : Nat} (ha : t.WitnessOk a)
    (hy : y = a ^ t.r % t.n) : (powEnded t a y).Ok rng := by
  unfold powEnded
  split
  · exact roundPassed_ok h hrng
  · exact ⟨h, hrng, ha, le_rfl, by simpa using hy⟩

/-- Squaring `y_(j-1)` gives `y_j` (rule R165). -/
theorem mulmod_squared (a r n : Nat) {j : Nat} (hj : 1 ≤ j) :
    mulmod (a ^ (r * 2 ^ (j - 1)) % n) (a ^ (r * 2 ^ (j - 1)) % n) n = a ^ (r * 2 ^ j) % n := by
  obtain ⟨i, rfl⟩ : ∃ i, j = i + 1 := ⟨j - 1, by omega⟩
  rw [mulmod, ← Nat.mul_mod, ← pow_add, Nat.add_sub_cancel]
  congr 2
  ring

theorem squareStep_ok (h : t.RoundOk) (hrng : rng.isSome = true) {a y j : Nat} (ha : t.WitnessOk a) (hj : 1 ≤ j)
    (hy : y = a ^ (t.r * 2 ^ (j - 1)) % t.n) : (squareStep t a y j).Ok rng := by
  unfold squareStep
  split
  · simp only
    split
    · exact roundFailed_ok t rng
    · exact ⟨h, hrng, ha, by omega, by rw [hy]; exact mulmod_squared a t.r t.n hj⟩
  · split
    · exact roundFailed_ok t rng
    · exact roundPassed_ok h hrng

/-- Every step of a test keeps the test's invariant (rule R162). -/
theorem PrimeTest.Ok.event (h : t.Ok rng) : (testEvent t rng).1.Ok (testEvent t rng).2 := by
  obtain ⟨n, k, s, r, i, stage⟩ := t
  cases stage with
  | verdict v => trivial
  | draw =>
    obtain ⟨hround, hrng⟩ := h
    obtain ⟨st, rfl⟩ := Option.isSome_iff_exists.1 hrng
    have hn : 5 ≤ n := hround.1
    exact witnessDrawn_ok hround rfl (drawUniform_lt st (by simp only; omega))
  | pow w =>
    obtain ⟨hround, hrng, hwit, he, hm, hw⟩ := h
    have hn : 5 ≤ n := hround.1
    simp only at he hm
    by_cases hx : w.x = 0
    · have hacc := hw.acc_eq (by omega) hx
      rw [he, hm] at hacc
      simp only [testEvent, if_pos hx]
      exact powEnded_ok hround hrng hwit hacc
    · simp only [testEvent, if_neg hx]
      exact ⟨hround, hrng, hwit, he, hm, hw.step⟩
  | square a y j =>
    obtain ⟨hround, hrng, hwit, hj, hy⟩ := h
    exact squareStep_ok hround hrng hwit hj hy

end

/-! The state without its command in flight. -/

/-- The part of `State.Inv` that says nothing of a command in flight: a legal width, and every big register in
`[0, 2^W)` (rules R8, R21). -/
def State.RegsOk (s : State) : Prop := legalW s.W ∧ ∀ i : Reg, s.reg i < 2 ^ s.W

theorem State.Inv.regsOk {s : State} (h : s.Inv) : s.RegsOk := ⟨h.1, h.2.1⟩

theorem State.Inv.jobOk {s : State} {job : Job} (h : s.Inv) (hp : s.phase = .run job) : job.Ok s.W s.rng :=
  h.2.2 job hp

section
variable {s : State} (h : s.RegsOk)
include h

theorem State.RegsOk.congr {t : State} (hregs : t.regs = s.regs) (hparam : t.param = s.param) : t.RegsOk := by
  simp only [State.RegsOk, State.W_congr hparam, State.reg_congr hregs]
  exact h

theorem State.RegsOk.setReg (rd : Reg) {v : Nat} (hv : v < 2 ^ s.W) : (s.setReg rd v).RegsOk := by
  refine ⟨h.1, fun i => ?_⟩
  rw [State.reg_setReg, State.W_setReg]
  split
  · exact hv
  · exact h.2 i

/-- With no command in flight the registers are all of the invariant. -/
theorem State.RegsOk.inv (hb : s.busy = false) : s.Inv := by
  refine ⟨h.1, h.2, fun job hp => ?_⟩
  rw [State.busy_eq_true.2 ⟨job, hp⟩] at hb
  cases hb

theorem State.RegsOk.complete : s.complete.Inv := State.RegsOk.inv (s := s.complete) h rfl

theorem State.RegsOk.raiseFault (c : FaultCode) : (s.raiseFault c).Inv :=
  State.RegsOk.inv (s := s.raiseFault c) h rfl

theorem State.RegsOk.runJob {job : Job} (hj : job.Ok s.W s.rng) : (s.runJob job).Inv := by
  refine ⟨h.1, h.2, fun job' hp => ?_⟩
  cases hp
  exact hj

end

/-- What keeps the registers, the width and the source, and does not put another command in flight, keeps the
invariant. -/
theorem State.Inv.congr {s t : State} (h : s.Inv) (hregs : t.regs = s.regs) (hparam : t.param = s.param)
    (hrng : t.rng = s.rng) (hphase : t.phase = s.phase ∨ t.busy = false) : t.Inv := by
  have regs := h.regsOk.congr hregs hparam
  rcases hphase with hp | hb
  · refine ⟨regs.1, regs.2, fun job hj => ?_⟩
    rw [State.W_congr hparam, hrng]
    exact h.jobOk (hp ▸ hj)
  · exact regs.inv hb

/-! Engine events (rules R207, R208). -/

/-- A candidate has at most `w` bits, or is 2 where `w = 1` (rule R172). -/
theorem candidate_drawBits_lt (st : Source) (w : Nat) :
    candidate w (drawBits st w).2 < 2 ^ w ∨ w = 1 ∧ candidate w (drawBits st w).2 ≤ 2 := by
  have hv := drawBits_lt st w
  unfold candidate
  split
  · next hw => subst hw; right; omega
  · exact .inl hv

/-- An event of a primality test keeps the invariant (rule R162). -/
theorem primalityEvent_inv {s : State} {t : PrimeTest} (h : s.RegsOk) (hn : t.n < 2 ^ s.W) (ht : t.Ok s.rng) :
    (primalityEvent t s).Inv := by
  have step_inv : ((s.setRng (testEvent t s.rng).2).runJob (.isprime (testEvent t s.rng).1)).Inv := by
    refine State.RegsOk.runJob (s := s.setRng (testEvent t s.rng).2) h ⟨?_, ht.event⟩
    rw [(testEvent_fixed t s.rng).1]
    exact hn
  unfold primalityEvent
  split
  · exact State.RegsOk.complete (s := s.writeVerdict _) h
  · exact step_inv

/-- An event of a prime search keeps the invariant (rule R173). -/
theorem searchEvent_inv {s : State} {rd : Reg} {w k : Nat} {search : Option PrimeTest} (h : s.RegsOk)
    (hj : (Job.makeprime rd w k search).Ok s.W s.rng) : (searchEvent rd w k search s).Inv := by
  cases search with
  | none =>
    obtain ⟨hw, hrng⟩ := hj
    obtain ⟨st, hst⟩ := Option.isSome_iff_exists.1 hrng
    simp only [searchEvent, hst]
    exact State.RegsOk.runJob (s := s.setRng (some (drawBits st w).1)) h
      ⟨hw, rfl, rfl, candidate_drawBits_lt st w, testStart_ok fun _ _ => rfl⟩
  | some t =>
    obtain ⟨hw, hrng, hk, hn, ht⟩ := hj
    have hnW : t.n < 2 ^ s.W := by
      rcases hn with hn | ⟨-, hn⟩
      · exact hn.trans_le (Nat.pow_le_pow_right (by decide) hw)
      · exact hn.trans_lt (two_lt_two_pow_of_legalW h.1)
    have step_inv : ((s.setRng (testEvent t s.rng).2).runJob (.makeprime rd w k (some (testEvent t s.rng).1))).Inv := by
      obtain ⟨en, ek, -, -⟩ := testEvent_fixed t s.rng
      refine State.RegsOk.runJob (s := s.setRng (testEvent t s.rng).2) h ⟨hw, ?_, ek.trans hk, ?_, ht.event⟩
      · exact (testEvent_rng t s.rng).trans hrng
      · rw [en]; exact hn
    simp only [searchEvent]
    split
    · exact State.RegsOk.complete (s := (s.setReg rd t.n).setPrime true) (h.setReg rd hnW)
    · exact h.runJob ⟨hw, hrng⟩
    · exact step_inv

/-- Every event of a command that issue admitted keeps the invariant (rule R254). -/
theorem jobEvent_inv {s : State} {job : Job} (h : s.RegsOk) (hj : job.Ok s.W s.rng) : (jobEvent job s).Inv := by
  cases job with
  | nop => exact h.complete
  | modmul rd a b m =>
    obtain ⟨hm, -, -, hmW⟩ := hj
    exact (h.setReg rd ((Nat.mod_lt _ hm).trans hmW)).complete
  | modexp rd w =>
    obtain ⟨hm, hw⟩ := hj
    simp only [jobEvent]
    split
    · exact (h.setReg rd (hw.acc_lt h.1 hm)).complete
    · exact h.runJob ⟨hm, hw.step⟩
  | gcd rd w =>
    have hw : w.Ok s.W := hj
    simp only [jobEvent]
    split
    · exact (h.setReg rd hw.1).complete
    · exact h.runJob hw.step
  | modinv rd w =>
    have hw : w.Ok s.W := hj
    simp only [jobEvent]
    split
    · exact State.RegsOk.complete (s := (s.setReg rd (invResult w)).setNoinv (noInverse w.r))
        (h.setReg rd hw.invResult_lt)
    · exact h.runJob hw.step
  | isprime t => exact primalityEvent_inv h hj.1 hj.2
  | makeprime rd w k search => exact searchEvent_inv h hj
  | seed v => exact State.RegsOk.complete (s := s.setRng (some (Config.rngSeed v))) h
  | rngclr => exact State.RegsOk.complete (s := s.setRng none) h
  | rndbits rd n =>
    obtain ⟨hn, hrng⟩ := hj
    obtain ⟨st, hst⟩ := Option.isSome_iff_exists.1 hrng
    have hv := (drawBits_lt st n).trans_le (Nat.pow_le_pow_right (by decide) hn)
    simp only [jobEvent, hst]
    exact (State.RegsOk.setReg (s := s.setRng (some (drawBits st n).1)) h rd hv).complete
  | rnduni rd b =>
    obtain ⟨hb, hbW, hrng⟩ := hj
    obtain ⟨st, hst⟩ := Option.isSome_iff_exists.1 hrng
    have hv := (drawUniform_lt st hb).trans hbW
    simp only [jobEvent, hst]
    exact (State.RegsOk.setReg (s := s.setRng (some (drawUniform st b).1)) h rd hv).complete

theorem engineEvent_inv (s : State) (h : s.Inv) : (engineEvent s).Inv := by
  cases hb : s.busy with
  | false => rwa [engineEvent_of_not_busy hb]
  | true =>
    obtain ⟨job, hp⟩ := State.busy_eq_true.1 hb
    rw [engineEvent_run hp]
    exact jobEvent_inv h.regsOk (h.jobOk hp)

theorem runEngine_inv {s : State} (h : s.Inv) (k : Nat) : (runEngine k s).Inv :=
  runEngine_induction engineEvent_inv h k

/-! Issue (rules R205, R251, R254). -/

/-- No fault is reported exactly when no condition of the list holds (rule R255). -/
@[simp] theorem firstFault_cons_eq_none (b : Bool) (c : FaultCode) (rest : List (Bool × FaultCode)) :
    firstFault ((b, c) :: rest) = none ↔ b = false ∧ firstFault rest = none := by
  rw [firstFault_cons]; cases b <;> simp

theorem State.zeroModulus_eq_false {s : State} {rm : Reg} : s.zeroModulus rm = false ↔ 0 < s.reg rm := by
  simp [State.zeroModulus, State.sourceOperand, Nat.pos_iff_ne_zero]

theorem State.rngUninit_eq_false {s : State} : s.rngUninit = false ↔ s.rng.isSome = true := by
  simp [State.rngUninit, State.rngValid]

theorem State.bitsOutOfRange_eq_false {s : State} : s.bitsOutOfRange = false ↔ s.bitsOperand ≤ s.W := by
  simp [State.bitsOutOfRange]

/-- No `ZERO_MODULUS`: the modulus is not 0. -/
theorem modulus_pos_of_no_fault {s : State} {rm : Reg} (h : firstFault [(s.zeroModulus rm, .zeroModulus)] = none) :
    0 < s.reg rm := by
  simpa [State.zeroModulus_eq_false] using h

/-- Neither `RNG_UNINIT` nor `RANGE` for `BITS`: a valid source, and a draw that fits a register. -/
theorem source_and_range_of_no_fault {s : State}
    (h : firstFault [(s.rngUninit, .rngUninit), (s.bitsOutOfRange, .range)] = none) :
    s.rng.isSome = true ∧ s.bitsOperand ≤ s.W := by
  simpa [State.rngUninit_eq_false, State.bitsOutOfRange_eq_false] using h

/-- Every meaning is an issue that admits a command only where its invariant holds (rules R251, R254). -/
theorem exec_admits (i : Instr) {s : State} (h : s.RegsOk) :
    ∃ f job, exec i s = issue f job s ∧ (f = none → job.Ok s.W s.rng) := by
  have fits : ∀ r, s.sourceOperand r < 2 ^ s.W := h.2
  cases i with
  | nop => exact ⟨none, .nop, rfl, fun _ => trivial⟩
  | modmul rd ra rb rm =>
    refine ⟨_, _, rfl, fun hf => ?_⟩
    have hm := modulus_pos_of_no_fault hf
    exact ⟨hm, fits ra, fits rb, fits rm⟩
  | modexp rd ra rb rm =>
    refine ⟨_, _, rfl, fun hf => ?_⟩
    have hm := modulus_pos_of_no_fault hf
    exact ⟨fits rm, expStart_ok _ _ hm⟩
  | gcd rd ra rb => exact ⟨none, .gcd rd _, rfl, fun _ => gcdStart_ok (fits ra) (fits rb)⟩
  | modinv rd ra rm =>
    refine ⟨_, _, rfl, fun hf => ?_⟩
    have hm := modulus_pos_of_no_fault hf
    exact invStart_ok _ hm (fits rm)
  | isprime ra =>
    refine ⟨_, _, rfl, fun hf => ⟨fits ra, testStart_ok fun hn hk => ?_⟩⟩
    have draws : testDraws (s.sourceOperand ra) s.iterOperand = true := decide_eq_true ⟨hn, hk⟩
    simpa [draws, State.rngUninit_eq_false] using hf
  | makeprime rd =>
    refine ⟨_, _, rfl, fun hf => ?_⟩
    obtain ⟨hrng, hbits⟩ := source_and_range_of_no_fault hf
    exact ⟨hbits, hrng⟩
  | seed ra =>
    refine ⟨_, _, rfl, fun hf => ⟨fits ra, ?_⟩⟩
    simpa [State.rngValid] using hf
  | rngclr =>
    refine ⟨_, _, rfl, fun hf => ?_⟩
    have hrng : s.rng.isSome = true := by simpa [State.rngUninit_eq_false] using hf
    exact hrng
  | rndbits rd =>
    refine ⟨_, _, rfl, fun hf => ?_⟩
    obtain ⟨hrng, hbits⟩ := source_and_range_of_no_fault hf
    exact ⟨hbits, hrng⟩
  | rnduni rd ra =>
    refine ⟨_, _, rfl, fun hf => ?_⟩
    have ⟨hrng, hbound⟩ : s.rng.isSome = true ∧ s.sourceOperand ra ≠ 0 := by
      simpa [State.rngUninit_eq_false] using hf
    exact ⟨Nat.pos_of_ne_zero hbound, fits ra, hrng⟩

/-- Every command keeps the invariant: a fault entry touches no register, and what is admitted runs within it. -/
theorem exec_inv {i : Instr} {s t : State} (h : s.RegsOk) (ht : exec i s = .next t) : t.Inv := by
  obtain ⟨f, job, hi, admitted⟩ := exec_admits i h
  rcases issue_next (hi ▸ ht) with ⟨c, -, rfl⟩ | ⟨hf, rfl⟩
  · exact h.raiseFault c
  · exact runEngine_inv (h.runJob (admitted hf)) _

/-! Accesses (rules R53, R54, R58, R280). -/

theorem State.resetFor_inv {W : Nat} (hW : legalW W) : (State.resetFor W).Inv := by
  have h : (State.resetFor W).W = W := State.W_resetFor hW.2.2
  refine State.RegsOk.inv ⟨by rwa [h], fun i => ?_⟩ rfl
  rw [State.reg_resetFor]
  exact Nat.two_pow_pos _

/-- A limb write keeps a register of a legal width in its range (rule R54). -/
theorem setLimb_lt_of_place {W addr size : Nat} (hW : legalW W) {i : Reg} {j v : Nat} (x : Word)
    (hp : place W addr size = .limbOf i j) (hv : v < 2 ^ W) : setLimb v j x < 2 ^ W := by
  obtain ⟨-, hj, -⟩ := place_eq_limbOf hW hp
  obtain ⟨q, rfl⟩ : ∃ q, W = 32 * q := ⟨W / 32, by have := hW.1; omega⟩
  exact setLimb_lt x hv (by omega)

theorem State.Inv.storeUnlessBusy {s stored : State} (h : s.Inv) (hs : s.busy = false → stored.Inv) :
    (s.storeUnlessBusy stored).Inv := by
  rw [State.storeUnlessBusy_eq]
  cases hb : s.busy with
  | true => exact h.congr rfl rfl rfl (.inl rfl)
  | false => exact (hs hb).congr rfl rfl rfl (.inl rfl)

/-- A write at any place but `CMD` keeps the invariant: a limb is stored only while no command is in flight (rule
R58). -/
theorem State.Inv.busWrite {s : State} {addr size : Nat} (h : s.Inv) (v : Word) :
    (s.busWrite (place s.W addr size) v).Inv := by
  cases hp : place s.W addr size with
  | cmd => exact h
  | status =>
    obtain ⟨-, hparam, -, -, hrng, -, -⟩ := s.busWrite_fixed .status v
    have hphase := (s.busWrite_phase .status v).imp_right fun hp => State.busy_eq_false.2 (.inl hp.2)
    refine h.congr ?_ hparam hrng hphase
    simp only [State.busWrite, State.writeStatus_eq]
    rfl
  | iter => exact h.storeUnlessBusy fun _ => h.congr rfl rfl rfl (.inl rfl)
  | bits => exact h.storeUnlessBusy fun _ => h.congr rfl rfl rfl (.inl rfl)
  | param => exact h.congr rfl rfl rfl (.inl rfl)
  | reserved => exact h.congr rfl rfl rfl (.inl rfl)
  | limbOf i j =>
    exact h.storeUnlessBusy fun hb =>
      (h.regsOk.setReg i (setLimb_lt_of_place h.regsOk.1 v hp (h.regsOk.2 i))).inv hb
  | refused => exact h.congr rfl rfl rfl (.inl rfl)

/-- `STATUS` reads 0 after reset (rule R42). -/
@[simp] theorem State.statusWord_resetFor (W : Nat) : (State.resetFor W).statusWord = 0 := by
  simp [State.statusWord, State.busy, State.err, State.rngValid, State.errCode, flagAt]

/-! The obligations on the invariant, and the reset values. -/

/-- Settles O55: by the cases of a step. An engine event keeps the invariant of its loop, issue admits only what meets
it, and a stored limb stays within its register. -/
theorem stepKeepsInv : Obligations.StepKeepsInv := by
  intro s t h ht
  have arrived : ∀ rest n, (s.arrive rest n).Inv := fun rest n => h.congr rfl rfl rfl (.inl rfl)
  cases step_does ht with
  | engine _ => exact engineEvent_inv s h
  | reset n rest _ => exact (State.resetFor_inv h.regsOk.1).congr rfl rfl rfl (.inl rfl)
  | read addr size n rest r _ =>
    exact runEngine_inv (s := (s.arrive rest n).respond r) ((arrived rest n).congr rfl rfl rfl (.inl rfl)) n
  | write addr size n v rest _ _ => exact runEngine_inv ((arrived rest n).busWrite v) n
  | command addr size n v rest i _ _ _ _ _ ht =>
    exact exec_inv (s := (s.arrive rest n).accept v) (arrived rest n).regsOk ht
  | illegal addr size n v rest r _ _ _ _ =>
    exact State.RegsOk.raiseFault (s := (s.arrive rest n).accept v) (arrived rest n).regsOk _
  | dropped addr size n v rest _ _ _ =>
    exact runEngine_inv (s := (s.arrive rest n).dropWrite) ((arrived rest n).congr rfl rfl rfl (.inl rfl)) n

/-- Settles O56: the open width is legal, and every big register is 0. -/
theorem resetMeetsInv : Obligations.ResetMeetsInv := State.resetFor_inv legalW_config

/-- Settles O6: the values of `State.resetFor`, field by field; a legal width fits `PARAM`. -/
theorem resetValues : Obligations.ResetValues := by
  refine ⟨rfl, legalW_config, fun W hW => ?_⟩
  exact ⟨State.reg_resetFor W, rfl, State.statusWord_resetFor W, rfl, rfl, State.W_resetFor hW.2.2, rfl, rfl⟩

/-! Commands that end at their first event (rule R208). -/

/-- A command that issue admits and whose first event answers a state without a command in flight ends after one event,
and is in flight before it (log entry 6). -/
theorem endsAfter_one {i : Instr} {job : Job} {s t : State}
    (admitted : ∀ n, exec i (s.grant n) = issue none job (s.grant n))
    (ends : ∀ n, jobEvent job ((s.grant n).runJob job) = t.grant n) (idle : t.busy = false) : EndsAfter 1 i s t := by
  refine ⟨fun n hn => ?_, fun n hn => ⟨(s.grant n).runJob job, ?_, rfl⟩⟩
  · obtain ⟨k, rfl⟩ : ∃ k, n = k + 1 := ⟨n - 1, by omega⟩
    have ended : (t.grant (k + 1)).busy = false := idle
    rw [admitted, issue_none, State.grant_turns, runEngine_succ, engineEvent_run rfl, ends, runEngine_of_not_busy ended]
  · obtain rfl : n = 0 := by omega
    rw [admitted, issue_none, State.grant_turns, runEngine_zero]

/-- Settles O47: no condition of the row holds, and the one event draws, writes and completes. -/
theorem rndbitsResult : Obligations.RndbitsResult := by
  intro s rd st hst hbits
  refine ⟨_, _, rfl, drawBits_lt st _,
    endsAfter_one (job := .rndbits rd s.bits.toNat) (fun n => ?_) (fun n => ?_) rfl⟩
  · have hrng : (s.grant n).rngUninit = false := State.rngUninit_eq_false.2 (by simp [hst])
    have hrange : (s.grant n).bitsOutOfRange = false := State.bitsOutOfRange_eq_false.2 hbits
    simp only [exec, execRndbits, firstFault_cons, hrng, hrange]
    rfl
  · simp only [jobEvent, State.runJob_rng, State.grant_rng, hst]
    rfl

/-- Settles O48: no condition of the row holds, and the one event draws, writes and completes. -/
theorem rnduniResult : Obligations.RnduniResult := by
  intro s rd ra st hst hbound
  refine ⟨_, _, rfl, drawUniform_lt st (Nat.pos_of_ne_zero hbound),
    endsAfter_one (job := .rnduni rd (s.reg ra)) (fun n => ?_) (fun n => ?_) rfl⟩
  · have hrng : (s.grant n).rngUninit = false := State.rngUninit_eq_false.2 (by simp [hst])
    have hrange : ((s.grant n).sourceOperand ra == 0) = false := beq_false_of_ne hbound
    simp only [exec, execRnduni, firstFault_cons, hrng, hrange]
    rfl
  · simp only [jobEvent, State.runJob_rng, State.grant_rng, hst]
    rfl

end Sys2Proof.Machine
end

section
/-! PROOFS. The engine's frame: which flags and registers the events of a command leave alone, and what that says of
`exec` and of the engine (rules R22, R25, R30 to R32, R38, R194, R205 to R208). -/

namespace Sys2Proof.Machine

/-! What a host sees of the phase. -/

theorem State.busy_congr {s t : State} (h : t.phase = s.phase) : t.busy = s.busy := by simp only [State.busy, h]

theorem State.err_congr {s t : State} (h : t.phase = s.phase) : t.err = s.err := by simp only [State.err, h]

theorem State.errCode_congr {s t : State} (h : t.phase = s.phase) : t.errCode = s.errCode := by
  simp only [State.errCode, h]

/-- `ERRCODE` is 0 whenever `ERR` is 0 (rule R29). -/
theorem State.errCode_of_err_eq_false {s : State} (h : s.err = false) : s.errCode = 0 := by
  rcases State.err_eq_false.1 h with h | ⟨job, h⟩ <;> simp only [State.errCode, h]

theorem State.err_of_busy {s : State} (h : s.busy = true) : s.err = false :=
  State.err_eq_false.2 (.inr (State.busy_eq_true.1 h))

/-! A property of every command of one kind. -/

/-- What every event of a command of a kind keeps, any number of events keeps, where each event leaves a command of the
kind in flight, or none. -/
theorem runEngine_job_induction {Of : Job → Prop} {P : State → Prop}
    (event : ∀ job s, s.phase = .run job → Of job → P s →
      P (jobEvent job s) ∧ ∀ job', (jobEvent job s).phase = .run job' → Of job')
    {s : State} (start : ∀ job, s.phase = .run job → Of job) (h : P s) (k : Nat) : P (runEngine k s) := by
  refine (runEngine_induction (P := fun t => P t ∧ ∀ job, t.phase = .run job → Of job) (fun t ht => ?_)
    ⟨h, start⟩ k).1
  cases hb : t.busy with
  | false => rwa [engineEvent_of_not_busy hb]
  | true =>
    obtain ⟨job, hp⟩ := State.busy_eq_true.1 hb
    rw [engineEvent_run hp]
    exact event job t hp (ht.2 job hp) ht.1

/-! The flags by opcode. -/

/-- The opcode of a command in flight (rule R40). -/
def Job.row : Job → Row
  | .nop => .nop
  | .modmul _ _ _ _ => .modmul
  | .modexp _ _ => .modexp
  | .gcd _ _ => .gcd
  | .modinv _ _ => .modinv
  | .isprime _ => .isprime
  | .makeprime _ _ _ _ => .makeprime
  | .seed _ => .seed
  | .rngclr => .rngclr
  | .rndbits _ _ => .rndbits
  | .rnduni _ _ => .rnduni

/-- The commands that write `PRIME` (rule R30). -/
def writesPrime : Row → Bool
  | .isprime | .makeprime => true
  | _ => false

/-- The command that writes `NOINV` (rule R31). -/
def writesNoinv : Row → Bool
  | .modinv => true
  | _ => false

/-- The commands that write `rng_valid` (rules R32, R38). -/
def writesRngValid : Row → Bool
  | .seed | .rngclr => true
  | _ => false

/-- The commands that seed, clear or draw from the random source (rule R194). -/
def movesSource : Row → Bool
  | .isprime | .makeprime | .seed | .rngclr | .rndbits | .rnduni => true
  | _ => false

/-- `FlagFrame r s t`: the flags and the source that a command with opcode `r` does not write are the same in `t` as in
`s`. -/
structure FlagFrame (r : Row) (s t : State) : Prop where
  prime : writesPrime r = false → t.prime = s.prime
  noinv : writesNoinv r = false → t.noinv = s.noinv
  rngValid : writesRngValid r = false → t.rngValid = s.rngValid
  rng : movesSource r = false → t.rng = s.rng

theorem FlagFrame.of_eq {r : Row} {s t : State} (hp : t.prime = s.prime) (hn : t.noinv = s.noinv) (hr : t.rng = s.rng) :
    FlagFrame r s t :=
  ⟨fun _ => hp, fun _ => hn, fun _ => congrArg Option.isSome hr, fun _ => hr⟩

theorem FlagFrame.refl (r : Row) (s : State) : FlagFrame r s s := .of_eq rfl rfl rfl

theorem FlagFrame.trans {r : Row} {s t u : State} (h : FlagFrame r s t) (k : FlagFrame r t u) : FlagFrame r s u :=
  ⟨fun e => (k.prime e).trans (h.prime e), fun e => (k.noinv e).trans (h.noinv e),
    fun e => (k.rngValid e).trans (h.rngValid e), fun e => (k.rng e).trans (h.rng e)⟩

theorem primalityEvent_flagFrame (t : PrimeTest) (s : State) : FlagFrame .isprime s (primalityEvent t s) := by
  unfold primalityEvent
  split
  · exact ⟨nofun, fun _ => rfl, fun _ => rfl, nofun⟩
  · exact ⟨nofun, fun _ => rfl, fun _ => testEvent_rng t s.rng, nofun⟩

theorem searchEvent_flagFrame (rd : Reg) (w k : Nat) (search : Option PrimeTest) (s : State) :
    FlagFrame .makeprime s (searchEvent rd w k search s) := by
  cases search with
  | none =>
    simp only [searchEvent]
    split
    · next st hst => exact ⟨nofun, fun _ => rfl, fun _ => by simp [State.rngValid, hst], nofun⟩
    · exact .refl _ s
  | some t =>
    simp only [searchEvent]
    split
    · exact ⟨nofun, fun _ => rfl, fun _ => rfl, nofun⟩
    · exact .of_eq rfl rfl rfl
    · exact ⟨nofun, fun _ => rfl, fun _ => testEvent_rng t s.rng, nofun⟩

/-- One event writes no flag but those of its command's opcode (rules R30, R31, R32, R194). -/
theorem jobEvent_flagFrame (job : Job) (s : State) : FlagFrame job.row s (jobEvent job s) := by
  cases job with
  | nop => exact .of_eq rfl rfl rfl
  | modmul rd a b m => exact .of_eq rfl rfl rfl
  | modexp rd w => simp only [jobEvent]; split <;> exact .of_eq rfl rfl rfl
  | gcd rd w => simp only [jobEvent]; split <;> exact .of_eq rfl rfl rfl
  | modinv rd w =>
    simp only [jobEvent]
    split
    · exact ⟨fun _ => rfl, nofun, fun _ => rfl, fun _ => rfl⟩
    · exact .of_eq rfl rfl rfl
  | isprime t => exact primalityEvent_flagFrame t s
  | makeprime rd w k search => exact searchEvent_flagFrame rd w k search s
  | seed v => exact ⟨fun _ => rfl, fun _ => rfl, nofun, nofun⟩
  | rngclr => exact ⟨fun _ => rfl, fun _ => rfl, nofun, nofun⟩
  | rndbits rd n =>
    simp only [jobEvent]
    split
    · next st hst => exact ⟨fun _ => rfl, fun _ => rfl, fun _ => by simp [State.rngValid, hst], nofun⟩
    · exact .refl _ s
  | rnduni rd b =>
    simp only [jobEvent]
    split
    · next st hst => exact ⟨fun _ => rfl, fun _ => rfl, fun _ => by simp [State.rngValid, hst], nofun⟩
    · exact .refl _ s

/-- A command that stays in flight keeps its opcode (rule R40). -/
theorem jobEvent_row {job job' : Job} {s : State} (h : s.phase = .run job)
    (h' : (jobEvent job s).phase = .run job') : job'.row = job.row := by
  have stays : ∀ {t : State} {j : Job}, (t.runJob j).phase = .run job' → j.row = job.row → job'.row = job.row := by
    intro t j hj hrow; cases hj; exact hrow
  have ended : ∀ {t : State}, t.complete.phase = .run job' → job'.row = job.row := nofun
  have still : s.phase = .run job' → job'.row = job.row := fun e => by cases h.symm.trans e; rfl
  have turn : ∀ {c : Prop} [Decidable c] {t u : State} {j : Job},
      (if c then t.complete else u.runJob j).phase = .run job' → j.row = job.row → job'.row = job.row := by
    intro c _ t u j hj hrow
    split at hj
    · exact ended hj
    · exact stays hj hrow
  cases job with
  | nop => exact ended h'
  | modmul rd a b m => exact ended h'
  | modexp rd w => exact turn h' rfl
  | gcd rd w => exact turn h' rfl
  | modinv rd w => exact turn h' rfl
  | isprime t =>
    simp only [jobEvent, primalityEvent] at h'
    split at h'
    · exact ended h'
    · exact stays h' rfl
  | makeprime rd w k search =>
    cases search with
    | none =>
      simp only [jobEvent, searchEvent] at h'
      split at h'
      · exact stays h' rfl
      · exact still h'
    | some t =>
      simp only [jobEvent, searchEvent] at h'
      split at h'
      · exact ended h'
      · exact stays h' rfl
      · exact stays h' rfl
  | seed v => exact ended h'
  | rngclr => exact ended h'
  | rndbits rd n =>
    simp only [jobEvent] at h'
    split at h'
    · exact ended h'
    · exact still h'
  | rnduni rd b =>
    simp only [jobEvent] at h'
    split at h'
    · exact ended h'
    · exact still h'

/-- Any number of events writes no flag but those of the opcode in flight. -/
theorem runEngine_flagFrame {r : Row} {s : State} (h : ∀ job, s.phase = .run job → job.row = r) (k : Nat) :
    FlagFrame r s (runEngine k s) :=
  runEngine_job_induction (Of := fun job => job.row = r)
    (fun job t hp hrow frame =>
      ⟨frame.trans (hrow ▸ jobEvent_flagFrame job t), fun _ hp' => (jobEvent_row hp hp').trans hrow⟩)
    h (.refl r s) k

/-- Every meaning is an issue of a command with the instruction's opcode (rule R205). -/
theorem exec_issue_row (i : Instr) (s : State) : ∃ f job, exec i s = issue f job s ∧ job.row = i.row := by
  cases i with
  | nop => exact ⟨none, .nop, rfl, rfl⟩
  | gcd rd ra rb => exact ⟨none, .gcd rd _, rfl, rfl⟩
  | _ => exact ⟨_, _, rfl, rfl⟩

/-- No command writes a flag but those of its opcode, faulted, in flight or completed (rules R30, R31, R32, R194). -/
theorem exec_flagFrame {i : Instr} {s t : State} (h : exec i s = .next t) : FlagFrame i.row s t := by
  obtain ⟨f, job, hi, hrow⟩ := exec_issue_row i s
  rcases issue_next (hi ▸ h) with ⟨c, -, rfl⟩ | ⟨-, rfl⟩
  · exact .of_eq rfl rfl rfl
  · have issued : FlagFrame i.row s (s.runJob job) := .of_eq rfl rfl rfl
    refine issued.trans (runEngine_flagFrame (fun job' hp => ?_) s.turns)
    cases hp
    exact hrow

/-- Settles O50: by opcode, what the issued command and each of its events write. -/
theorem commandFrameFlags : Obligations.CommandFrameFlags := by
  intro i s t h
  have frame := exec_flagFrame h
  refine ⟨fun h1 h2 => frame.prime ?_, fun h1 => frame.noinv ?_, fun h1 h2 => frame.rngValid ?_,
    fun h1 h2 h3 h4 h5 h6 => frame.rng ?_⟩
  · cases i with
    | isprime ra => exact absurd rfl (h1 ra)
    | makeprime rd => exact absurd rfl (h2 rd)
    | _ => rfl
  · cases i with
    | modinv rd ra rm => exact absurd rfl (h1 rd ra rm)
    | _ => rfl
  · cases i with
    | seed ra => exact absurd rfl (h1 ra)
    | rngclr => exact absurd rfl h2
    | _ => rfl
  · cases i with
    | seed ra => exact absurd rfl (h1 ra)
    | rngclr => exact absurd rfl h2
    | isprime ra => exact absurd rfl (h3 ra)
    | makeprime rd => exact absurd rfl (h4 rd)
    | rndbits rd => exact absurd rfl (h5 rd)
    | rnduni rd ra => exact absurd rfl (h6 rd ra)
    | _ => rfl

/-! The big registers (rule R22). -/

/-- One event writes no big register but its command's `RD`. -/
theorem jobEvent_reg {job : Job} {s : State} (h : s.phase = .run job) {r : Reg} (hr : job.dest ≠ some r) :
    (jobEvent job s).reg r = s.reg r := by
  rcases jobEvent_cases job s h with ⟨job', -, -, hregs, -⟩ | ⟨-, -, other⟩
  · exact State.reg_congr hregs r
  · exact other r hr

/-- A command that stays in flight keeps its `RD` (rule R40). -/
theorem jobEvent_dest {job job' : Job} {s : State} (h : s.phase = .run job)
    (h' : (jobEvent job s).phase = .run job') : job'.dest = job.dest := by
  rcases jobEvent_cases job s h with ⟨job'', hp, hd, -⟩ | ⟨idle, -⟩
  · cases hp.symm.trans h'
    exact hd
  · cases idle.symm.trans h'

/-- Any number of events writes no big register but the `RD` of the command in flight. -/
theorem runEngine_reg {s : State} {r : Reg} (h : ∀ job, s.phase = .run job → job.dest ≠ some r) (k : Nat) :
    (runEngine k s).reg r = s.reg r :=
  runEngine_job_induction (Of := fun job => job.dest ≠ some r) (P := fun t => t.reg r = s.reg r)
    (fun _ _ hp hd kept => ⟨(jobEvent_reg hp hd).trans kept, fun _ hp' => jobEvent_dest hp hp' ▸ hd⟩) h rfl k

theorem exec_fixed {i : Instr} {s t : State} (h : exec i s = .next t) : Fixed s t := by
  rcases exec_next h with ⟨c, rfl⟩ | ⟨job, -, rfl⟩
  · exact ⟨rfl, rfl, rfl, rfl, rfl, rfl, rfl, rfl⟩
  · have issued : Fixed s (s.runJob job) := ⟨rfl, rfl, rfl, rfl, rfl, rfl, rfl, rfl⟩
    exact issued.trans (runEngine_fixed s.turns (s.runJob job))

/-- No command writes a big register but its `RD`, faulted, in flight or completed (rule R22). -/
theorem exec_reg {i : Instr} {s t : State} (h : exec i s = .next t) {r : Reg} (hr : i.dest ≠ some r) :
    t.reg r = s.reg r := by
  rcases exec_next h with ⟨c, rfl⟩ | ⟨job, hd, rfl⟩
  · rfl
  · refine (runEngine_reg (s := s.runJob job) (fun job' hp => ?_) s.turns).trans rfl
    cases hp
    exact hd ▸ hr

/-- Settles O49: issue and engine events write `RD` alone of the big registers, and none of the control registers. -/
theorem commandFrameRegisters : Obligations.CommandFrameRegisters := by
  intro i s t h
  obtain ⟨cmd, iter, bits, param, drop, host, turns, resp⟩ := exec_fixed h
  exact ⟨fun _ hr => exec_reg h hr, cmd, iter, bits, param, drop, host, turns, resp⟩

/-- Settles O51: each place but `STATUS` and a limb of `RD` holds a word of the frame. -/
theorem commandFrameWindow : Obligations.CommandFrameWindow := by
  intro i s t addr size h hstatus hlimb
  have fixed := exec_fixed h
  rw [State.memRead, State.memRead, State.W_congr fixed.param]
  cases hp : place s.W addr size with
  | cmd => exact congrArg some fixed.cmd
  | status => exact absurd hp hstatus
  | iter => exact congrArg some fixed.iter
  | bits => exact congrArg some fixed.bits
  | param => exact congrArg some fixed.param
  | reserved => rfl
  | limbOf r j => simp only [State.wordAt, exec_reg h (hlimb r j hp)]
  | refused => rfl

/-! One engine event as a host sees it (rules R207, R208). -/

/-- Settles O52: an event that keeps the command in flight keeps the registers and all of `STATUS`. -/
theorem runIsInvisible : Obligations.RunIsInvisible := by
  intro s hb hb' addr size
  obtain ⟨job, hp⟩ := State.busy_eq_true.1 hb
  rw [engineEvent_run hp] at hb' ⊢
  have fixed := jobEvent_fixed job s
  rcases jobEvent_cases job s hp with ⟨-, -, -, hregs, hdone, hprime, hnoinv, hvalid⟩ | ⟨idle, -⟩
  · refine State.memRead_congr fixed.param (State.reg_congr hregs) fixed.cmd fixed.iter fixed.bits ?_ addr size
    have errCode (t : State) (h : t.busy = true) : t.errCode = 0 :=
      State.errCode_of_err_eq_false (State.err_of_busy h)
    simp only [State.statusWord, hb, hb', State.err_of_busy hb, State.err_of_busy hb', errCode s hb, errCode _ hb',
      hdone, hprime, hnoinv, hvalid, fixed.drop]
  · rw [State.busy_eq_false.2 (.inl idle)] at hb'
    cases hb'

/-- Settles O53: an event that does not leave the command in flight completes it. -/
theorem completionSetsDone : Obligations.CompletionSetsDone := by
  intro s hb hb'
  obtain ⟨job, hp⟩ := State.busy_eq_true.1 hb
  rw [engineEvent_run hp] at hb' ⊢
  rcases jobEvent_cases job s hp with ⟨job', hp', -⟩ | ⟨idle, hdone, -⟩
  · rw [State.busy_eq_true.2 ⟨job', hp'⟩] at hb'
    cases hb'
  · exact ⟨hdone, State.err_eq_false.2 (.inl idle)⟩

/-- Where an event changes `rng_valid`, it is the completion of `SEED` or of `RNGCLR` (rules R38, R193). -/
theorem engineEvent_rngValid {s : State} (h : (engineEvent s).rngValid ≠ s.rngValid) :
    (∃ v, s.phase = .run (.seed v) ∧ (engineEvent s).rngValid = true)
      ∨ s.phase = .run .rngclr ∧ (engineEvent s).rngValid = false := by
  cases hb : s.busy with
  | false => exact absurd (congrArg State.rngValid (engineEvent_of_not_busy hb)) h
  | true =>
    obtain ⟨job, hp⟩ := State.busy_eq_true.1 hb
    rw [engineEvent_run hp] at h ⊢
    cases job with
    | seed v => exact .inl ⟨v, hp, rfl⟩
    | rngclr => exact .inr ⟨hp, rfl⟩
    | _ => exact absurd ((jobEvent_flagFrame _ s).rngValid rfl) h

end Sys2Proof.Machine
end

section
/-! PROOFS. `STATUS`, `PARAM` and the random source under the host's accesses (rules R26, R29, R36, R38, R41, R54, R58,
R257, R258, R286). -/

namespace Sys2Proof.Machine

/-! The bits of `STATUS` (rule R26). -/

theorem getLsbD_flagAt (b : Bool) {i : Nat} (hi : i < 32) (j : Nat) :
    (flagAt b i).getLsbD j = (b && decide (j = i)) := by
  cases b with
  | false => simp [flagAt]
  | true =>
    rw [flagAt, if_pos rfl, BitVec.getLsbD_shiftLeft, BitVec.getLsbD_one, Bool.eq_iff_iff]
    simp
    omega

/-- Every bit of `STATUS`: the flags at bits 0 to 6, and the bits of `ERRCODE` from bit 8 up. -/
theorem State.getLsbD_statusWord (s : State) (j : Nat) :
    s.statusWord.getLsbD j =
      (s.busy && decide (j = 0) || s.done && decide (j = 1) || s.err && decide (j = 2) || s.prime && decide (j = 3)
        || s.noinv && decide (j = 4) || s.rngValid && decide (j = 5) || s.drop && decide (j = 6)
        || decide (8 ≤ j) && decide (j < 32) && s.errCode.testBit (j - 8)) := by
  have code : (BitVec.ofNat 32 s.errCode <<< 8).getLsbD j
      = (decide (8 ≤ j) && decide (j < 32) && s.errCode.testBit (j - 8)) := by
    rw [BitVec.getLsbD_shiftLeft, BitVec.getLsbD_ofNat, Bool.eq_iff_iff]
    cases s.errCode.testBit (j - 8) <;> simp
    omega
  simp only [State.statusWord, BitVec.getLsbD_or, code]
  simp only [getLsbD_flagAt, Nat.reduceLT]

theorem FaultCode.number_lt (c : FaultCode) : c.number < 2 ^ 8 := by cases c <;> decide

theorem State.errCode_lt (s : State) : s.errCode < 2 ^ 8 := by
  unfold State.errCode
  split
  · exact FaultCode.number_lt _
  · decide

theorem testBit_bitField (lo len : Nat) (w : Word) (j : Nat) :
    (bitField lo len w).testBit j = (decide (j < len) && w.getLsbD (j + lo)) := by
  rw [bitField, Nat.testBit_mod_two_pow, Nat.testBit_div_two_pow, BitVec.testBit_toNat]

/-- Settles O23: bit by bit, and the fields by their bits; a fault code has 8 bits. -/
theorem statusLayout : Obligations.StatusLayout := by
  intro s
  have high (j : Nat) (hj : 8 ≤ j) : s.errCode.testBit j = false :=
    Nat.testBit_lt_two_pow (s.errCode_lt.trans_le (Nat.pow_le_pow_right (by decide) hj))
  have field : bitField 8 8 s.statusWord = s.errCode := by
    refine Nat.eq_of_testBit_eq fun j => ?_
    rw [testBit_bitField, State.getLsbD_statusWord]
    by_cases hj : j < 8
    · simp [hj]
      omega
    · simp [hj, high j (by omega)]
  have upper : bitField 16 16 s.statusWord = 0 := by
    refine Nat.eq_of_testBit_eq fun j => ?_
    rw [testBit_bitField, State.getLsbD_statusWord, high (j + 16 - 8) (by omega)]
    simp
  refine ⟨?_, ?_, ?_, ?_, ?_, ?_, ?_, ?_, field, upper, State.errCode_of_err_eq_false⟩ <;>
    rw [State.getLsbD_statusWord] <;> simp

/-! What a host's access leaves alone (rules R41, R53, R54, R58). -/

/-- `STATUS` is the word at offset `0x004` (rule R51). -/
theorem place_eq_status {W addr size : Nat} (h : place W addr size = .status) : addr = 0x004 ∧ size = 4 := by
  unfold place controlPlace limbPlace at h
  split_ifs at h with _ _ _ h4
  exact ⟨h4, by omega⟩

/-- A write at any place but `CMD`, as a step. -/
theorem step_busWrite {s : State} {addr size n : Nat} {v : Word} {rest : List HostStep}
    (h : s.host = { access := .write addr size v, turns := n } :: rest) (hp : place s.W addr size ≠ .cmd) :
    step s = .next (runEngine n ((s.arrive rest n).busWrite (place s.W addr size) v)) := by
  rw [step_cons h]
  rcases access_cases (.write addr size v) ((s.setHost rest).grant n) with
    ⟨e, -⟩ | ⟨_, _, e, -⟩ | ⟨_, _, _, e, hc, -⟩ | ⟨_, _, _, e, -, ha⟩
  · cases e
  · cases e
  · cases e; exact absurd hc hp
  · cases e; exact ha

/-- A write at any place but `CMD` while `BUSY` stores nothing (rule R58). -/
theorem State.busWrite_of_busy {s : State} (h : s.busy = true) (p : Place) (v : Word) :
    (s.busWrite p v).phase = s.phase ∧ (s.busWrite p v).regs = s.regs ∧ (s.busWrite p v).iter = s.iter
      ∧ (s.busWrite p v).bits = s.bits := by
  have dropped (stored : State) : s.storeUnlessBusy stored = s.dropWrite := by simp [State.storeUnlessBusy, h]
  cases p with
  | status => simp [State.busWrite, State.writeStatus_eq, State.err_of_busy h]
  | iter => rw [State.busWrite, dropped]; exact ⟨rfl, rfl, rfl, rfl⟩
  | bits => rw [State.busWrite, dropped]; exact ⟨rfl, rfl, rfl, rfl⟩
  | limbOf i j => rw [State.busWrite, dropped]; exact ⟨rfl, rfl, rfl, rfl⟩
  | _ => exact ⟨rfl, rfl, rfl, rfl⟩

/-- A write at any place but `CMD` leaves the phase as it is, unless it is a write of bit 2 to `STATUS` (rules R26,
R257). -/
theorem State.busWrite_phase_eq {s : State} {p : Place} {v : Word} (h : p = .status → v.getLsbD 2 = false) :
    (s.busWrite p v).phase = s.phase := by
  have stored (u : State) (hu : u.phase = s.phase) : (s.storeUnlessBusy u).phase = s.phase := by
    unfold State.storeUnlessBusy
    split
    · rfl
    · exact hu
  cases p with
  | status => simp only [State.busWrite, State.writeStatus_eq, h rfl]; rfl
  | iter => exact stored _ rfl
  | bits => exact stored _ rfl
  | limbOf i j => exact stored _ rfl
  | _ => rfl

/-- Settles O18: a read answers, a write drops or touches `STATUS` flags, and a `CMD` write is dropped. -/
theorem hostCannotDisturbRunningCommand : Obligations.HostCannotDisturbRunningCommand := by
  intro s t a rest hb ha hh ht
  have notIdle : s.phase ≠ .idle := by
    obtain ⟨job, hp⟩ := State.busy_eq_true.1 hb
    rw [hp]; nofun
  cases step_does ht with
  | engine h => cases h.symm.trans hh
  | reset n rest' h => cases h.symm.trans hh; exact absurd rfl ha
  | read addr size n rest' r h => cases h.symm.trans hh; exact ⟨rfl, rfl, rfl, rfl, rfl, rfl, rfl, rfl⟩
  | write addr size n v rest' h hp =>
    cases h.symm.trans hh
    obtain ⟨phase, regs, iter, bits⟩ := State.busWrite_of_busy (s := s.arrive rest 0) hb (place s.W addr size) v
    obtain ⟨cmd, -, prime, noinv, rng, -, -⟩ := (s.arrive rest 0).busWrite_fixed (place s.W addr size) v
    exact ⟨phase, regs, cmd, iter, bits, rng, prime, noinv⟩
  | command addr size n v rest' i t h hp idle hd hx => exact absurd idle notIdle
  | illegal addr size n v rest' r h hp idle hd => exact absurd idle notIdle
  | dropped addr size n v rest' h hp _ => cases h.symm.trans hh; exact ⟨rfl, rfl, rfl, rfl, rfl, rfl, rfl, rfl⟩

/-- No step writes `PARAM` (rule R36); the reset input writes the width that `PARAM` holds. -/
theorem step_param {s t : State} (ht : step s = .next t) : t.param = s.param := by
  cases step_does ht with
  | engine h => exact (engineEvent_fixed s).param
  | reset n rest h => exact (BitVec.ofNat_toNat 32 s.param).trans (BitVec.setWidth_eq _)
  | read addr size n rest r h => exact (runEngine_fixed n _).param
  | write addr size n v rest h hp =>
    obtain ⟨-, param, -⟩ := (s.arrive rest n).busWrite_fixed (place s.W addr size) v
    exact (runEngine_fixed n _).param.trans param
  | command addr size n v rest i t h hp idle hd hx => exact (exec_fixed hx).param
  | illegal addr size n v rest r h hp idle hd => rfl
  | dropped addr size n v rest h hp _ => exact (runEngine_fixed n _).param

/-- Settles O22: the reset value, the word at `0x010`, and `step_param`. -/
theorem paramNeverChanges : Obligations.ParamNeverChanges :=
  ⟨State.W_reset, fun _ => rfl, fun _ _ => step_param⟩

/-- Settles O24: the write is `State.writeStatus`, whose fields `State.writeStatus_eq` gives; the phase by bit 2 and
`ERR`. -/
theorem statusWriteClearsOnes : Obligations.StatusWriteClearsOnes := by
  intro s v rest hh
  obtain ⟨t, ht⟩ : ∃ t, t = (s.arrive rest 0).busWrite .status v := ⟨_, rfl⟩
  have hstep : step s = .next t := ht ▸ step_busWrite hh nofun
  rw [State.busWrite, State.writeStatus_eq] at ht
  have hphase : t.phase = if v.getLsbD 2 && s.err then .idle else s.phase := by rw [ht]; rfl
  have kept (h : v.getLsbD 2 = false ∨ s.err = false) : t.phase = s.phase := by
    rcases h with h | h <;> simp only [hphase, h, Bool.false_and, Bool.and_false] <;> rfl
  have cleared (h2 : v.getLsbD 2 = true) (he : s.err = true) : t.phase = .idle := by
    simp only [hphase, h2, he]; rfl
  have errs : t.err = (s.err && !v.getLsbD 2) ∧ t.errCode = (if v.getLsbD 2 then 0 else s.errCode) := by
    cases h2 : v.getLsbD 2 with
    | false => simp [State.err_congr (kept (.inl h2)), State.errCode_congr (kept (.inl h2))]
    | true =>
      have ht0 : t.err = false := by
        cases he : s.err with
        | false => rw [State.err_congr (kept (.inr he)), he]
        | true => exact State.err_eq_false.2 (.inl (cleared h2 he))
      simp [ht0, State.errCode_of_err_eq_false ht0]
  refine ⟨t, hstep, ?_, errs.1, errs.2, ?_, cleared, kept, ?_⟩ <;> simp [ht]

/-- Settles O25: a faulted block has no command in flight and accepts none, and of the writes only `STATUS` with bit 2
leaves `FAULT`. -/
theorem errStaysUntilCleared : Obligations.ErrStaysUntilCleared := by
  intro s t he ht
  obtain ⟨c, hc⟩ := State.err_eq_true.1 he
  have notBusy {u : State} (hu : u.phase = s.phase) : u.busy = false := State.busy_eq_false.2 (.inr ⟨c, hu.trans hc⟩)
  have notIdle : s.phase ≠ .idle := by rw [hc]; nofun
  have stays {u : State} (n : Nat) (hu : u.phase = s.phase) :
      (runEngine n u).err = true ∧ (runEngine n u).errCode = s.errCode := by
    rw [runEngine_of_not_busy (notBusy hu), State.err_congr hu, State.errCode_congr hu]
    exact ⟨he, rfl⟩
  cases step_does ht with
  | engine h => exact .inl (stays 1 rfl)
  | reset n rest h => exact .inr (.inl ⟨n, rest, h⟩)
  | read addr size n rest r h => exact .inl (stays n rfl)
  | write addr size n v rest h hp =>
    by_cases clears : place s.W addr size = .status ∧ v.getLsbD 2 = true
    · obtain ⟨rfl, rfl⟩ := place_eq_status clears.1
      exact .inr (.inr ⟨v, n, rest, h, clears.2⟩)
    · exact .inl (stays n (State.busWrite_phase_eq (s := s.arrive rest n) fun e => by simpa [e] using clears))
  | command addr size n v rest i t h hp idle hd hx => exact absurd idle notIdle
  | illegal addr size n v rest r h hp idle hd => exact absurd idle notIdle
  | dropped addr size n v rest h hp _ => exact .inl (stays n rfl)

/-- A command with no engine event after its issue leaves the random source (rules R205, R207). -/
theorem exec_rng_of_no_turns {i : Instr} {s t : State} (h : exec i s = .next t) (hn : s.turns = 0) :
    t.rng = s.rng := by
  rcases exec_next h with ⟨c, rfl⟩ | ⟨job, -, rfl⟩
  · rfl
  · rw [hn]; rfl

/-- Settles O54: an event that changes `rng_valid` is the completion of `SEED` or `RNGCLR`; an access moves no
source. -/
theorem rngLifecycle : Obligations.RngLifecycle := by
  refine ⟨fun s after before => ?_, fun s after before => ?_, fun s t a rest ha hh ht => ?_⟩
  · rcases engineEvent_rngValid (s := s) (by simp [after, before]) with ⟨v, hp, -⟩ | ⟨-, cleared⟩
    · exact ⟨v, hp⟩
    · cases after.symm.trans cleared
  · rcases engineEvent_rngValid (s := s) (by simp [after, before]) with ⟨v, -, seeded⟩ | ⟨hp, -⟩
    · cases after.symm.trans seeded
    · exact hp
  · cases step_does ht with
    | engine h => cases h.symm.trans hh
    | reset n rest' h => cases h.symm.trans hh; exact absurd rfl ha
    | read addr size n rest' r h => cases h.symm.trans hh; rfl
    | write addr size n v rest' h hp =>
      cases h.symm.trans hh
      obtain ⟨-, -, -, -, rng, -⟩ := (s.arrive rest 0).busWrite_fixed (place s.W addr size) v
      exact rng
    | command addr size n v rest' i t h hp idle hd hx =>
      cases h.symm.trans hh
      exact exec_rng_of_no_turns (s := (s.arrive rest 0).accept v) hx rfl
    | illegal addr size n v rest' r h hp idle hd => rfl
    | dropped addr size n v rest' h hp _ => cases h.symm.trans hh; rfl

end Sys2Proof.Machine
end

section
/-! PROOFS. Commands that loop: what `MODMUL`, `MODEXP`, `GCD`, `MODINV` and `MAKEPRIME` end in (rules R22, R110 to R113,
R121 to R126, R137 to R146, R171 to R174, R208). -/

namespace Sys2Proof.Machine

/-! A loop of engine events, and its end. -/

/-- A command that issue admits, whose first `k` events pass through the commands in flight `jobs 0`, …, `jobs k` and whose
next event answers a state without a command in flight, ends after `k + 1` events (log entry 6). -/
theorem endsAfter_loop {i : Instr} {s t : State} {k : Nat} {jobs : Nat → Job}
    (admitted : ∀ n, exec i (s.grant n) = issue none (jobs 0) (s.grant n))
    (iterates : ∀ j u, j < k → jobEvent (jobs j) u = u.runJob (jobs (j + 1)))
    (ends : ∀ n, jobEvent (jobs k) ((s.grant n).runJob (jobs k)) = t.grant n) (idle : t.busy = false) :
    EndsAfter (k + 1) i s t := by
  have reaches (n j : Nat) (hj : j ≤ k) :
      runEngine j ((s.grant n).runJob (jobs 0)) = (s.grant n).runJob (jobs j) := by
    induction j with
    | zero => rfl
    | succ j ih =>
      rw [runEngine_add j 1, ih (by omega), runEngine_succ, engineEvent_run rfl, iterates j _ hj]
      rfl
  refine ⟨fun n hn => ?_, fun n hn => ⟨(s.grant n).runJob (jobs n), ?_, rfl⟩⟩
  · obtain ⟨d, rfl⟩ : ∃ d, n = k + (d + 1) := ⟨n - (k + 1), by omega⟩
    have ended : (t.grant (k + (d + 1))).busy = false := idle
    rw [admitted, issue_none, State.grant_turns, runEngine_add, reaches _ k le_rfl, runEngine_succ,
      engineEvent_run rfl, ends, runEngine_of_not_busy ended]
  · rw [admitted, issue_none, State.grant_turns, reaches n n (by omega)]

theorem EndsAfter.endsIn {k : Nat} {i : Instr} {s t : State} (h : EndsAfter k i s t) : EndsIn i s t := ⟨k, h.1⟩

/-- A loop whose measure falls at every turn until it is 0 comes to a first value with measure 0. -/
theorem exists_first_zero {α : Type} (f : α → α) (measure : α → Nat)
    (falls : ∀ x, measure x ≠ 0 → measure (f x) < measure x) (x : α) :
    ∃ k, measure (f^[k] x) = 0 ∧ ∀ j, j < k → measure (f^[j] x) ≠ 0 := by
  have reached : ∃ k, measure (f^[k] x) = 0 := by
    induction h : measure x using Nat.strong_induction_on generalizing x with
    | _ m ih =>
      by_cases hx : measure x = 0
      · exact ⟨0, hx⟩
      · obtain ⟨k, hk⟩ := ih _ (h ▸ falls x hx) (f x) rfl
        exact ⟨k + 1, hk⟩
  classical
  exact ⟨Nat.find reached, Nat.find_spec reached, fun j hj => Nat.find_min reached hj⟩

/-! Issue with the one condition `ZERO_MODULUS` (rule R251). -/

theorem no_zeroModulus {s : State} {rm : Reg} (h : s.reg rm ≠ 0) (n : Nat) :
    firstFault [((s.grant n).zeroModulus rm, .zeroModulus)] = none := by
  have hm : (s.grant n).zeroModulus rm = false := State.zeroModulus_eq_false.2 (Nat.pos_of_ne_zero h)
  rw [firstFault_cons, hm]
  rfl

/-- Settles O31: no condition of the row holds, and the one event multiplies, writes and completes. -/
theorem modmulResult : Obligations.ModmulResult := by
  intro s rd ra rb rm hm
  refine endsAfter_one (job := .modmul rd (s.reg ra) (s.reg rb) (s.reg rm)) (fun n => ?_) (fun _ => rfl) rfl
  rw [exec, execModmul, no_zeroModulus hm]
  rfl

/-! The loop of `MODEXP` (rules R123, R124, R126). -/

/-- After `j` iterations the bits of the exponent that are left are its quotient by `2^j`. -/
theorem expStep_iterate_x (w : ExpWork) (j : Nat) : (expStep^[j] w).x = w.x / 2 ^ j := by
  induction j with
  | zero => simp
  | succ j ih => rw [Function.iterate_succ_apply', expStep, ih, Nat.div_div_eq_div_mul, pow_succ]

/-- The latches of the loop stay (rule R22). -/
theorem expStep_iterate_latches (b0 e m j : Nat) :
    (expStep^[j] (expStart b0 e m)).b0 = b0 ∧ (expStep^[j] (expStart b0 e m)).e = e
      ∧ (expStep^[j] (expStart b0 e m)).m = m :=
  Function.Iterate.rec (f := expStep) (a := expStart b0 e m) (fun w : ExpWork => w.b0 = b0 ∧ w.e = e ∧ w.m = m)
    ⟨rfl, rfl, rfl⟩ (fun _ h => h) j

theorem ExpWork.Ok.iterate {w : ExpWork} (h : w.Ok) (j : Nat) : (expStep^[j] w).Ok :=
  Function.Iterate.rec ExpWork.Ok h (fun _ => ExpWork.Ok.step) j

theorem div_two_pow_ne_zero_of_lt_bitlen {e j : Nat} (h : j < bitlen e) : e / 2 ^ j ≠ 0 := by
  unfold bitlen at h
  split at h
  · omega
  · next he =>
    have : 2 ^ j ≤ e := (Nat.pow_le_pow_right (by decide) (by omega)).trans (Nat.log2_self_le he)
    exact (Nat.div_pos this (Nat.two_pow_pos j)).ne'

theorem lt_two_pow_bitlen (e : Nat) : e < 2 ^ bitlen e := by
  unfold bitlen
  split
  · next he => simp [he]
  · exact Nat.lt_log2_self

/-- The last iteration takes the exponent's leading bit, so it leaves a remainder in the accumulator, for modulus 1 too. -/
theorem expStep_acc_lt {w : ExpWork} (hm : 0 < w.m) (hx : w.x = 1) : (expStep w).acc < w.m := by
  simp only [expStep, hx, mulmod]
  exact Nat.mod_lt _ hm

/-- What the loop leaves after `bitlen(e)` iterations: the power, or 1 for the exponent 0 (rules R124, R126). -/
theorem expStep_iterate_acc (b0 e : Nat) {m : Nat} (hm : 0 < m) :
    (expStep^[bitlen e] (expStart b0 e m)).acc = if e = 0 then 1 else b0 ^ e % m := by
  by_cases he : e = 0
  · subst he; rfl
  obtain ⟨hb0, hexp, hmod⟩ := expStep_iterate_latches b0 e m (bitlen e)
  have hx : (expStep^[bitlen e] (expStart b0 e m)).x = 0 := by
    rw [expStep_iterate_x]
    exact Nat.div_eq_of_lt (lt_two_pow_bitlen e)
  have hacc : (expStep^[bitlen e] (expStart b0 e m)).acc < m := by
    have hlen : bitlen e = e.log2 + 1 := by simp [bitlen, he]
    obtain ⟨-, -, hmod'⟩ := expStep_iterate_latches b0 e m e.log2
    have hlast : (expStep^[e.log2] (expStart b0 e m)).x = 1 := by
      rw [expStep_iterate_x]
      refine Nat.div_eq_of_lt_le ?_ ?_
      · simpa [expStart] using Nat.log2_self_le he
      · simpa [expStart, pow_succ, mul_comm] using Nat.lt_log2_self (n := e)
    rw [hlen, Function.iterate_succ_apply']
    exact (expStep_acc_lt (by rwa [hmod']) hlast).trans_eq hmod'
  obtain ⟨-, -, -, hpow⟩ := (expStart_ok b0 e hm).iterate (bitlen e)
  rw [hx, hb0, hexp, hmod, pow_zero, mul_one, Nat.mod_eq_of_lt hacc] at hpow
  rw [hpow, if_neg he]

/-- Settles O32: each of `bitlen(e)` events is an iteration, and the next one writes what the loop leaves. -/
theorem modexpResult : Obligations.ModexpResult := by
  intro s rd ra rb rm hm
  have hx (j : Nat) := expStep_iterate_x (expStart (s.reg ra) (s.reg rb) (s.reg rm)) j
  refine endsAfter_loop (jobs := fun j => .modexp rd (expStep^[j] (expStart (s.reg ra) (s.reg rb) (s.reg rm))))
    (fun n => ?_) (fun j u hj => ?_) (fun n => ?_) rfl
  · rw [exec, execModexp, no_zeroModulus hm]
    rfl
  · have more := div_two_pow_ne_zero_of_lt_bitlen hj
    rw [Function.iterate_succ_apply', jobEvent, if_neg (by rw [hx]; exact more)]
  · have last := Nat.div_eq_of_lt (lt_two_pow_bitlen (s.reg rb))
    rw [jobEvent, if_pos (by rw [hx]; exact last), expStep_iterate_acc _ _ (Nat.pos_of_ne_zero hm)]
    rfl

/-! The loop of `GCD` (rules R138, R140). -/

/-- The loop keeps the greatest common divisor of its two values. -/
theorem gcdStep_iterate_gcd (a b k : Nat) :
    Nat.gcd (gcdStep^[k] (gcdStart a b)).a (gcdStep^[k] (gcdStart a b)).b = Nat.gcd a b :=
  Function.Iterate.rec (fun w : GcdWork => Nat.gcd w.a w.b = Nat.gcd a b) rfl
    (fun w h => (gcd_remainder w.a w.b).trans h) k

/-- Settles O33: the remainder falls to 0, and then the other value is the greatest common divisor. -/
theorem gcdResult : Obligations.GcdResult := by
  intro s rd ra rb
  obtain ⟨k, last, more⟩ := exists_first_zero gcdStep GcdWork.b
    (fun w hb => Nat.mod_lt w.a (Nat.pos_of_ne_zero hb)) (gcdStart (s.reg ra) (s.reg rb))
  have hgcd := gcdStep_iterate_gcd (s.reg ra) (s.reg rb) k
  rw [last, Nat.gcd_zero_right] at hgcd
  refine (endsAfter_loop (k := k) (jobs := fun j => .gcd rd (gcdStep^[j] (gcdStart (s.reg ra) (s.reg rb))))
    (fun n => rfl) (fun j u hj => ?_) (fun n => ?_) rfl).endsIn
  · rw [Function.iterate_succ_apply', jobEvent, if_neg (more j hj)]
  · rw [jobEvent, if_pos last, hgcd]
    rfl

/-! The loop of `MODINV` (rules R141 to R146). -/

theorem invStep_iterate_latches (a n k : Nat) :
    (invStep^[k] (invStart a n)).a0 = a ∧ (invStep^[k] (invStart a n)).n = n :=
  Function.Iterate.rec (f := invStep) (a := invStart a n) (fun w : InvWork => w.a0 = a ∧ w.n = n) ⟨rfl, rfl⟩
    (fun _ h => h) k

theorem InvWork.Ok.iterate {W : Nat} {w : InvWork} (h : w.Ok W) (k : Nat) : (invStep^[k] w).Ok W :=
  Function.Iterate.rec (InvWork.Ok W) h (fun _ => InvWork.Ok.step) k

/-- At the end of the loop `r` is the greatest common divisor, and `t` is `r` divided by `a`, modulo `n` (rule R142). -/
theorem InvWork.Ok.at_end {W : Nat} {w : InvWork} (h : w.Ok W) (last : w.r1 = 0) :
    w.r = Nat.gcd w.a0 w.n ∧ (w.n : Int) ∣ w.a0 * w.t - w.r := by
  obtain ⟨-, -, -, -, hgcd, ht, -⟩ := h
  rw [last, Nat.gcd_zero_right] at hgcd
  exact ⟨hgcd, Int.dvd_of_emod_eq_zero ht⟩

/-- Reducing a coefficient modulo `n` into `[0, n)` keeps what it is the inverse of (rule R143). -/
theorem mul_toNat_emod {a n : Nat} {t : Int} (hn : 0 < n) (h : (n : Int) ∣ a * t - 1) :
    (t % (n : Int)).toNat < n ∧ a * (t % (n : Int)).toNat % n = 1 % n := by
  have hpos : (0 : Int) < n := by omega
  have hcast : ((t % (n : Int)).toNat : Int) = t % n := Int.toNat_of_nonneg (Int.emod_nonneg t hpos.ne')
  have hlt := Int.emod_lt_of_pos t hpos
  refine ⟨by omega, ?_⟩
  have key : (a * (t % (n : Int)).toNat : Int) ≡ 1 [ZMOD n] := by
    rw [hcast]
    exact ((Int.mod_modEq t n).mul_left a).trans (Int.modEq_iff_dvd.2 h).symm
  exact_mod_cast key

/-- There is at most one inverse below `n` (rule R141). -/
theorem inverse_unique {a n t u : Nat} (hco : Nat.gcd a n = 1) (ht : t < n) (hu : u < n)
    (hat : a * t % n = 1 % n) (hau : a * u % n = 1 % n) : u = t := by
  have h : a * u ≡ a * t [MOD n] := hau.trans hat.symm
  have := Nat.ModEq.cancel_left_of_coprime (by rwa [Nat.gcd_comm]) h
  rwa [Nat.ModEq, Nat.mod_eq_of_lt hu, Nat.mod_eq_of_lt ht] at this

/-- `MODINV` ends, and what it writes is what the ended loop leaves. -/
theorem modinv_ends {s : State} {rd ra rm : Reg} (hm : s.reg rm ≠ 0) :
    ∃ w : InvWork, w.Ok (s.reg rm) ∧ w.a0 = s.reg ra ∧ w.n = s.reg rm ∧ w.r1 = 0
      ∧ EndsIn (.modinv rd ra rm) s (((s.setReg rd (invResult w)).setNoinv (noInverse w.r)).complete) := by
  obtain ⟨k, last, more⟩ := exists_first_zero invStep InvWork.r1
    (fun w hr => (invStep_r1 w).trans_lt (Nat.mod_lt w.r (Nat.pos_of_ne_zero hr)))
    (invStart (s.reg ra) (s.reg rm))
  obtain ⟨ha0, hn⟩ := invStep_iterate_latches (s.reg ra) (s.reg rm) k
  refine ⟨_, (invStart_ok (s.reg ra) (Nat.pos_of_ne_zero hm) Nat.lt_two_pow_self).iterate k, ha0, hn, last,
    (endsAfter_loop (k := k) (jobs := fun j => .modinv rd (invStep^[j] (invStart (s.reg ra) (s.reg rm))))
      (fun n => ?_) (fun j u hj => ?_) (fun n => ?_) rfl).endsIn⟩
  · rw [exec, execModinv, no_zeroModulus hm]
    rfl
  · rw [Function.iterate_succ_apply', jobEvent, if_neg (more j hj)]
  · rw [jobEvent, if_pos last]
    rfl

/-- Settles O34: the ended loop's `r` is the greatest common divisor; where it is 1, `t mod n` is the one inverse. -/
theorem modinvResult : Obligations.ModinvResult := by
  intro s rd ra rm hm
  obtain ⟨w, ok, ha0, hn, last, ends⟩ := modinv_ends (s := s) (rd := rd) (ra := ra) hm
  obtain ⟨hr, hdvd⟩ := ok.at_end last
  rw [ha0, hn] at hr
  refine ⟨fun hco => ?_, fun hco => ?_⟩
  · have r1 : w.r = 1 := hr.trans hco
    rw [r1, ha0, hn] at hdvd
    obtain ⟨hlt, hinv⟩ := mul_toNat_emod (Nat.pos_of_ne_zero hm) hdvd
    have result : invResult w = (w.t % (s.reg rm : Int)).toNat := by rw [invResult, if_pos r1, hn]
    rw [r1, result] at ends
    exact ⟨_, hlt, hinv, fun u hu hau => inverse_unique hco hlt hu hinv hau, ends⟩
  · have r1 : w.r ≠ 1 := hr ▸ hco
    have result : invResult w = 0 := if_neg r1
    have sentinel : noInverse w.r = true := by simpa [noInverse] using r1
    rwa [result, sentinel] at ends

/-! The search of `MAKEPRIME` (rules R171 to R174). -/

/-- A test of a candidate of `w` bits that no verdict "prime" can end below 2 (rules R160, R172). -/
def PrimeTest.OfCandidate (w : Nat) (t : PrimeTest) : Prop :=
  (t.n < 2 ^ w ∨ w = 1 ∧ t.n ≤ 2) ∧ (t.stage = .verdict false ∨ 2 ≤ t.n)

theorem testStart_ofCandidate (st : Source) (w k : Nat) :
    (testStart (candidate w (drawBits st w).2) k).OfCandidate w := by
  refine ⟨candidate_drawBits_lt st w, ?_⟩
  generalize candidate w (drawBits st w).2 = n
  by_cases hn : 2 ≤ n
  · exact .inr hn
  · have : n = 0 ∨ n = 1 ∨ n = 4 := by omega
    exact .inl (by simp [testStart, fastVerdict, this])

theorem testEvent_ofCandidate {w : Nat} {t : PrimeTest} (h : t.OfCandidate w) (rng : Option Source) :
    (testEvent t rng).1.OfCandidate w := by
  obtain ⟨hn, -⟩ := testEvent_fixed t rng
  obtain ⟨fits, verdict⟩ := h
  refine ⟨by rwa [hn], verdict.imp (fun hv => ?_) (fun h2 => by rwa [hn])⟩
  simp only [testEvent, hv]

/-- The command in flight is a search of `w` bits for `R[rd]`. -/
def Job.Searches (rd : Reg) (w : Nat) (job : Job) : Prop :=
  ∃ k search, job = .makeprime rd w k search ∧ ∀ t, search = some t → t.OfCandidate w

/-- What a completed search leaves (rules R172, R174, R30). -/
structure State.Found (rd : Reg) (w : Nat) (s : State) : Prop where
  done : s.done = true
  prime : s.prime = true
  two_le : 2 ≤ s.reg rd
  fits : s.reg rd < 2 ^ w ∨ w = 1 ∧ s.reg rd ≤ 2

/-- An event of a search goes on with the search, or completes with its candidate (rule R173). -/
theorem searchEvent_searches {rd : Reg} {w k : Nat} {search : Option PrimeTest} {s : State}
    (hp : s.phase = .run (.makeprime rd w k search)) (h : ∀ t, search = some t → t.OfCandidate w) :
    (∃ job, (searchEvent rd w k search s).phase = .run job ∧ job.Searches rd w)
      ∨ (searchEvent rd w k search s).phase = .idle ∧ (searchEvent rd w k search s).Found rd w := by
  cases search with
  | none =>
    left
    simp only [searchEvent]
    split
    · next st _ => exact ⟨_, rfl, k, _, rfl, fun t e => by cases e; exact testStart_ofCandidate st w k⟩
    · exact ⟨_, hp, k, none, rfl, nofun⟩
  | some t =>
    obtain ⟨fits, verdict⟩ := h t rfl
    simp only [searchEvent]
    split
    · next hv =>
      have two_le : 2 ≤ t.n := verdict.resolve_left (by rw [hv]; nofun)
      have written : (((s.setReg rd t.n).setPrime true).complete).reg rd = t.n := State.reg_setReg_self s rd t.n
      exact .inr ⟨rfl, rfl, rfl, by rwa [written], by rwa [written]⟩
    · exact .inl ⟨_, rfl, k, none, rfl, nofun⟩
    · exact .inl ⟨_, rfl, k, _, rfl, fun t' e => by cases e; exact testEvent_ofCandidate ⟨fits, verdict⟩ s.rng⟩

/-- Whatever the number of events, a search that is no longer in flight has found its candidate. -/
theorem runEngine_found {rd : Reg} {w k : Nat} {s : State} (hp : s.phase = .run (.makeprime rd w k none)) (n : Nat)
    (hb : (runEngine n s).busy = false) : (runEngine n s).Found rd w := by
  refine runEngine_job_induction (Of := Job.Searches rd w) (P := fun t => t.busy = false → t.Found rd w)
    (fun job t hrun hsearch _ => ?_) (fun job hrun => ?_) (fun idle => ?_) n hb
  · obtain ⟨k', search, rfl, ok⟩ := hsearch
    rcases searchEvent_searches hrun ok with ⟨job, hgo, hof⟩ | ⟨idle, found⟩
    · refine ⟨fun stopped => ?_, fun job' hp' => ?_⟩
      · cases stopped.symm.trans (State.busy_eq_true.2 ⟨job, hgo⟩)
      · cases hgo.symm.trans hp'
        exact hof
    · exact ⟨fun _ => found, fun job' hp' => nomatch idle.symm.trans hp'⟩
  · cases hp.symm.trans hrun
    exact ⟨k, none, rfl, nofun⟩
  · cases idle.symm.trans (State.busy_eq_true.2 ⟨_, hp⟩)

/-- Settles O44: no condition of the row holds, and a search that has ended has found a candidate of `BITS` bits. -/
theorem makeprimeResultRange : Obligations.MakeprimeResultRange := by
  intro s t rd hrng hbits ht hb
  have noFault : firstFault [(s.rngUninit, .rngUninit), (s.bitsOutOfRange, .range)] = none := by
    simp [State.rngUninit_eq_false.2 hrng, State.bitsOutOfRange_eq_false.2 hbits]
  have found : t.Found rd s.bits.toNat := by
    rw [exec, execMakeprime, noFault] at ht
    cases ht
    exact runEngine_found rfl s.turns hb
  obtain ⟨done, prime, two_le, fits⟩ := found
  exact ⟨done, prime, two_le, fun h2 => fits.resolve_right (by omega), fun h1 => by rw [h1] at fits; omega⟩

end Sys2Proof.Machine
end

section
/-! PROOFS. The register window (rules R51 to R59) under the step: each kind of access as a step, the limbs of a register
as its digits, the lines `LOAD` and `READ` (rule R55), and a dropped command line (rules R206, R214). -/

namespace Sys2Proof.Machine

/-! Each kind of access as a step (rules R53, R54, R58, R62, R206). -/

theorem State.busRead_of_some {s : State} {addr size : Nat} {v : Word} (h : s.memRead addr size = some v) :
    s.busRead addr size = s.respond (.data v) := by simp only [State.busRead, h]

theorem State.busRead_of_none {s : State} {addr size : Nat} (h : s.memRead addr size = none) :
    s.busRead addr size = s.respond .busError := by simp only [State.busRead, h]

/-- A read, as a step. -/
theorem step_read {s : State} {addr size n : Nat} {rest : List HostStep}
    (h : s.host = { access := .read addr size, turns := n } :: rest) :
    step s = .next (runEngine n ((s.arrive rest n).busRead addr size)) := by
  obtain ⟨r, hr⟩ := (s.arrive rest n).busRead_eq addr size
  have performed : access (.read addr size) (s.arrive rest n)
      = .next (runEngine n ((s.arrive rest n).busRead addr size)) := by simp only [access, afterTurns, hr]; rfl
  exact (step_cons h).trans performed

/-- A write at the place of `CMD`, as a step. -/
theorem step_commandWrite {s : State} {addr size n : Nat} {v : Word} {rest : List HostStep}
    (h : s.host = { access := .write addr size v, turns := n } :: rest) (hp : place s.W addr size = .cmd) :
    step s = commandWrite v (s.arrive rest n) := by
  have hp' : place (s.arrive rest n).W addr size = .cmd := hp
  have performed : access (.write addr size v) (s.arrive rest n) = commandWrite v (s.arrive rest n) := by
    simp only [access, hp']
  exact (step_cons h).trans performed

/-- A write that rule R58 guards, as a step: it is stored, or dropped while `BUSY`. -/
theorem step_store {s stored : State} {addr size n : Nat} {v : Word} {rest : List HostStep} {p : Place}
    (h : s.host = { access := .write addr size v, turns := n } :: rest) (hp : place s.W addr size = p) (hc : p ≠ .cmd)
    (stores : (s.arrive rest n).busWrite p v = (s.arrive rest n).storeUnlessBusy stored) :
    step s = .next (runEngine n (if s.busy then (s.arrive rest n).dropWrite else stored.respond .ack)) := by
  rw [step_busWrite h (hp ▸ hc), hp, stores]
  rfl

/-- A stored write ends its step: without a command in flight no engine event follows. -/
theorem step_store_idle {s stored : State} {addr size n : Nat} {v : Word} {rest : List HostStep} {p : Place}
    (hb : s.busy = false) (h : s.host = { access := .write addr size v, turns := n } :: rest)
    (hp : place s.W addr size = p) (hc : p ≠ .cmd)
    (stores : (s.arrive rest n).busWrite p v = (s.arrive rest n).storeUnlessBusy stored)
    (phase : stored.phase = s.phase) : step s = .next (stored.respond .ack) := by
  have idle : (stored.respond .ack).busy = false := (State.busy_congr phase).trans hb
  rw [step_store h hp hc stores, hb, if_neg Bool.false_ne_true, runEngine_of_not_busy idle]

/-- A limb write that is stored: limb `j` of `R[i]` becomes `v`, and the write is acknowledged (rule R54). -/
def State.storeLimb (s : State) (i : Reg) (j : Nat) (v : Word) : State :=
  (s.setReg i (setLimb (s.reg i) j v)).respond .ack

theorem State.reg_storeLimb_self (s : State) (i : Reg) (j : Nat) (v : Word) :
    (s.storeLimb i j v).reg i = setLimb (s.reg i) j v := State.reg_setReg_self _ _ _

theorem State.reg_storeLimb_of_ne (s : State) {i r : Reg} (hne : r ≠ i) (j : Nat) (v : Word) :
    (s.storeLimb i j v).reg r = s.reg r := State.reg_setReg_of_ne _ _ hne.symm

/-- A limb write without a command in flight, as a step: that limb of the register alone is replaced (rule R54). -/
theorem step_limbWrite {s : State} {i : Reg} {j n : Nat} {v : Word} {rest : List HostStep} (hW : legalW s.W)
    (hb : s.busy = false) (hj : j < s.W / 32)
    (h : s.host = { access := .write (limbOffset s.W i j) 4 v, turns := n } :: rest) :
    step s = .next ((s.arrive rest n).storeLimb i j v) :=
  step_store_idle hb h (place_limbOffset hW i hj) nofun rfl rfl

/-! A command word at `CMD` (rules R205, R206). -/

theorem State.busy_of_err {s : State} (h : s.err = true) : s.busy = false :=
  State.busy_eq_false.2 (.inr (State.err_eq_true.1 h))

theorem State.phase_ne_idle {s : State} (h : s.busy = true ∨ s.err = true) : s.phase ≠ .idle := by
  rcases h with h | h
  · obtain ⟨job, hp⟩ := State.busy_eq_true.1 h
    rw [hp]; nofun
  · obtain ⟨c, hp⟩ := State.err_eq_true.1 h
    rw [hp]; nofun

theorem commandWrite_of_not_idle {s : State} (h : s.phase ≠ .idle) (v : Word) :
    commandWrite v s = .next (runEngine s.turns s.dropWrite) := by
  rcases commandWrite_cases v s with ⟨idle, -⟩ | ⟨idle, -⟩ | ⟨-, dropped⟩
  · exact absurd idle h
  · exact absurd idle h
  · exact dropped

theorem commandWrite_of_decode {s : State} {v : Word} {i : Instr} (idle : s.phase = .idle) (hd : decode v = .ok i) :
    commandWrite v s = exec i (s.accept v) := by
  simp only [commandWrite, idle, hd]

/-- Settles O8: the write is accepted in phase `IDLE`, and its word decodes. -/
theorem stepRunsDecodedCommand : Obligations.StepRunsDecodedCommand := by
  intro s w i n rest hh idle hd
  exact ⟨(step_commandWrite hh rfl).trans (commandWrite_of_decode (s := s.arrive rest n) idle hd), rfl, rfl⟩

/-- Settles O10: in the other phases the write is dropped, and `State.dropWrite` sets `DROP` alone. -/
theorem commandWriteIsDroppedUnlessIdle : Obligations.CommandWriteIsDroppedUnlessIdle := by
  intro s w n rest hh hb
  have dropped : step s = .next (runEngine n (s.arrive rest n).dropWrite) :=
    (step_commandWrite hh rfl).trans (commandWrite_of_not_idle (s := s.arrive rest n) (State.phase_ne_idle hb) w)
  exact ⟨_, dropped, rfl, rfl, rfl, rfl, rfl, rfl, rfl, rfl, rfl, rfl, rfl, rfl⟩

/-- Settles O11: with no access to come one engine event falls, and every access is answered. -/
theorem stepAlwaysAnswersNext : Obligations.StepAlwaysAnswersNext := by
  intro s
  cases hh : s.host with
  | nil => exact ⟨_, step_nil hh⟩
  | cons e rest => rw [step_cons hh]; exact access_exists _ _

/-! Reads, refused accesses and writes of control registers (rules R51, R53, R54, R58, R59). -/

/-- The reserved offsets (rule R51). -/
theorem place_eq_reserved (W : Nat) {addr : Nat} (aligned : addr % 4 = 0) (lo : 0x014 ≤ addr) (hi : addr ≤ 0xFFC) :
    place W addr 4 = .reserved := by
  rw [place, if_neg (by omega), if_pos (by omega), controlPlace, if_neg (by omega), if_neg (by omega),
    if_neg (by omega), if_neg (by omega), if_neg (by omega)]

/-- Settles O13: the word of the window at each place. -/
theorem windowReadValues : Obligations.WindowReadValues := by
  refine fun s hW => ⟨rfl, rfl, rfl, rfl, rfl, fun addr aligned lo hi => ?_, fun i j hj => State.memRead_limb hW i hj⟩
  rw [State.memRead, place_eq_reserved s.W aligned lo hi]
  rfl

/-- Settles O14: the step of a read is its answer, which is that of the state before the access. -/
theorem readsHaveNoSideEffect : Obligations.ReadsHaveNoSideEffect := by
  intro s addr size n rest hh
  rw [step_read hh]
  cases hm : s.memRead addr size with
  | some v => rw [State.busRead_of_some (s := s.arrive rest n) hm]; rfl
  | none => rw [State.busRead_of_none (s := s.arrive rest n) hm]; rfl

/-- Settles O19: the access is at the refused place, which has no word and takes no write. -/
theorem busErrorChangesNothing : Obligations.BusErrorChangesNothing := by
  intro s addr size v n rest ill
  have hp : place s.W addr size = .refused := (place_eq_refused _ _ _).2 ill
  refine ⟨fun hh => ?_, fun hh => ?_⟩
  · have hm : s.memRead addr size = none := by rw [State.memRead, hp]; rfl
    rw [step_read hh, State.busRead_of_none (s := s.arrive rest n) hm]
    rfl
  · rw [step_busWrite hh (by rw [hp]; nofun), hp]
    rfl

/-- Settles O16: `ITER` and `BITS` are stored, and from `0x010` up the place is `PARAM` or reserved. -/
theorem controlWritesReplaceOrAreIgnored : Obligations.ControlWritesReplaceOrAreIgnored := by
  intro s v addr n rest hh
  refine ⟨?_, ?_, fun aligned lo hi => ?_⟩
  · rintro rfl hb
    exact step_store_idle hb hh (p := .iter) rfl nofun rfl rfl
  · rintro rfl hb
    exact step_store_idle hb hh (p := .bits) rfl nofun rfl rfl
  · obtain rfl | lo' : addr = 0x010 ∨ 0x014 ≤ addr := by omega
    · exact step_busWrite hh nofun
    · have hp := place_eq_reserved s.W aligned lo' hi
      rw [step_busWrite hh (by rw [hp]; nofun), hp]
      rfl

/-- Settles O17: a `CMD` write is dropped outside `IDLE`, and the other three are writes that rule R58 guards. -/
theorem busyWritesAreDropped : Obligations.BusyWritesAreDropped := by
  intro s addr v n rest hb hh hp
  have guarded {p : Place} {stored : State} (hp : place s.W addr 4 = p) (hc : p ≠ .cmd)
      (stores : (s.arrive rest n).busWrite p v = (s.arrive rest n).storeUnlessBusy stored) :
      step s = .next (runEngine n (s.arrive rest n).dropWrite) := by
    rw [step_store hh hp hc stores, if_pos hb]
  rcases hp with hp | hp | hp | ⟨i, j, hp⟩
  · exact (step_commandWrite hh hp).trans
      (commandWrite_of_not_idle (s := s.arrive rest n) (State.phase_ne_idle (.inl hb)) v)
  · exact guarded hp nofun rfl
  · exact guarded hp nofun rfl
  · exact guarded hp nofun rfl

/-! Limbs in the window (rules R52, R54). -/

/-- After one limb of a register is replaced, an access at any other offset reads as before. -/
theorem State.memRead_storeLimb_of_ne {s : State} (hW : legalW s.W) (i : Reg) {j : Nat} (hj : j < s.W / 32) (v : Word)
    (addr size : Nat) (hne : addr ≠ limbOffset s.W i j) :
    (s.storeLimb i j v).memRead addr size = s.memRead addr size := by
  rw [State.memRead, State.memRead, State.storeLimb, State.W_respond, State.W_setReg]
  cases hp : place s.W addr size with
  | limbOf i' j' =>
    obtain ⟨-, -, haddr⟩ := place_eq_limbOf hW hp
    simp only [State.wordAt, State.reg_respond, State.reg_setReg]
    split
    · next same =>
      subst same
      have other : j' ≠ j := by rintro rfl; exact hne haddr
      rw [limb_setLimb_of_ne _ _ other]
    · rfl
  | _ => rfl

/-- Settles O15: the step replaces one limb of the register, which touches no other word of the window. -/
theorem limbWriteReplacesOneLimb : Obligations.LimbWriteReplacesOneLimb := by
  intro s i j v rest hW hb hj hh
  refine ⟨_, step_limbWrite hW hb hj hh, ?_, fun addr size hne => ?_, rfl, rfl⟩
  · refine (State.memRead_limb (s := (s.arrive rest 0).storeLimb i j v) hW i hj).trans ?_
    rw [State.reg_storeLimb_self, limb_setLimb_self]
  · exact State.memRead_storeLimb_of_ne (s := s.arrive rest 0) hW i hj v addr size hne

/-! Limbs as digits (rules R52, R55, R57). -/

theorem limb_toNat (v j : Nat) : (limb v j).toNat = v / 2 ^ (32 * j) % 2 ^ 32 := BitVec.toNat_ofNat _ _

/-- The low `j + 1` limbs are the low `j` limbs and limb `j` above them. -/
theorem mod_limbWeight_succ (v j : Nat) :
    v % 2 ^ (32 * (j + 1)) = v % 2 ^ (32 * j) + (limb v j).toNat * 2 ^ (32 * j) := by
  rw [limbWeight_succ, mul_comm (2 ^ 32), Nat.mod_mul, limb_toNat, mul_comm (2 ^ (32 * j))]

/-- The low `n` limbs, each at its weight, are the value modulo `2^(32*n)`. -/
theorem sum_limbs (v n : Nat) : ((List.range n).map fun j => (limb v j).toNat * 2 ^ (32 * j)).sum = v % 2 ^ (32 * n) := by
  induction n with
  | zero => simp [Nat.mod_one]
  | succ n ih =>
    rw [List.range_succ, List.map_append, List.sum_append, ih, mod_limbWeight_succ]
    simp

/-- Writing limb `j` of `value` extends the agreement with `value` by that limb. -/
theorem setLimb_mod_succ {u value j : Nat} (h : u % 2 ^ (32 * j) = value % 2 ^ (32 * j)) :
    setLimb u j (limb value j) % 2 ^ (32 * (j + 1)) = value % 2 ^ (32 * (j + 1)) := by
  rw [mod_limbWeight_succ, mod_limbWeight_succ, setLimb_mod, limb_setLimb_self, h]

theorem limbs_of_legalW {W : Nat} (h : legalW W) : 32 * (W / 32) = W := Nat.mul_div_cancel' (Nat.dvd_of_mod_eq_zero h.1)

/-- Settles O21: each read is its limb, and the limbs are the digits of the register. -/
theorem readBackIsTheRegister : Obligations.ReadBackIsTheRegister := by
  intro s i hW hlt
  have reads : s.readBack i =
      ((List.range (s.W / 32)).map fun j => (limb (s.reg i) j).toNat * 2 ^ (32 * j)).sum := by
    refine congrArg List.sum (List.map_congr_left fun j hj => ?_)
    rw [State.memRead_limb hW i (List.mem_range.1 hj)]
    rfl
  rw [reads, sum_limbs, limbs_of_legalW hW, Nat.mod_eq_of_lt hlt]

/-! The line `LOAD` (rules R55, R98). -/

theorem core_run_succ {s u : State} (h : step s = .next u) (k : Nat) :
    Sys2Proof.core.run (k + 1) s = Sys2Proof.core.run k u := by
  have hcore : Sys2Proof.core.step s = .next u := h
  simp only [Host.Core.run, hcore]

/-- The write of limb `j` in the line `LOAD Ri, value`. -/
def loadEvent (W : Nat) (i : Reg) (value j : Nat) : HostStep := writeEvent (limbOffset W i j) (limb value j)

theorem lineLoad_eq (W : Nat) (i : Reg) (value : Nat) :
    lineLoad W i value = (List.range' 0 (W / 32)).map (loadEvent W i value) := by
  rw [lineLoad, List.range_eq_range']
  rfl

/-- The writes of the limbs from `j` on, when the limbs below `j` are those of the value already. -/
theorem run_loadEvents (i : Reg) {value m j : Nat} {s : State} {rest : List HostStep} (hW : legalW s.W)
    (hb : s.busy = false) (hv : value < 2 ^ s.W) (hr : s.reg i < 2 ^ s.W) (hj : j + m = s.W / 32)
    (agree : s.reg i % 2 ^ (32 * j) = value % 2 ^ (32 * j))
    (hh : s.host = (List.range' j m).map (loadEvent s.W i value) ++ rest) :
    ∃ t, Sys2Proof.core.run m s = .next t ∧ t.reg i = value ∧ (∀ r, r ≠ i → t.reg r = s.reg r)
      ∧ t.phase = s.phase ∧ t.host = rest := by
  induction m generalizing s j with
  | zero =>
    have all : 32 * j = s.W := by rw [← limbs_of_legalW hW, ← hj, Nat.add_zero]
    rw [all, Nat.mod_eq_of_lt hr, Nat.mod_eq_of_lt hv] at agree
    exact ⟨s, rfl, agree, fun _ _ => rfl, rfl, hh⟩
  | succ m ih =>
    have hj' : j < s.W / 32 := by omega
    have fits : setLimb (s.reg i) j (limb value j) < 2 ^ s.W :=
      setLimb_lt_of_place hW _ (place_limbOffset hW i hj') hr
    have fewer : j + 1 + m = s.W / 32 := by omega
    obtain ⟨script, hscript⟩ : ∃ l, l = (List.range' (j + 1) m).map (loadEvent s.W i value) ++ rest := ⟨_, rfl⟩
    have next : s.host = loadEvent s.W i value j :: script := hscript ▸ hh
    have written := (s.arrive script 0).reg_storeLimb_self i j (limb value j)
    obtain ⟨t, ran, loaded, others, phase, host⟩ :=
      ih (s := (s.arrive script 0).storeLimb i j (limb value j)) hW hb hv (written.trans_lt fits) fewer
        ((congrArg (· % _) written).trans (setLimb_mod_succ agree)) hscript
    exact ⟨t, (core_run_succ (step_limbWrite hW hb hj' next) m).trans ran, loaded,
      fun r hne => (others r hne).trans (State.reg_storeLimb_of_ne _ hne _ _), phase, host⟩

/-- Settles O20: by the limb writes in turn, the first of which has no limb below it. -/
theorem loadSetsWholeRegister : Obligations.LoadSetsWholeRegister := by
  intro s i value rest hW hb hr hv hh
  rw [lineLoad_eq] at hh
  exact run_loadEvents i hW hb hv hr (Nat.zero_add _) (by simp [Nat.mod_one]) hh

/-! A dropped command line (rules R206, R214). -/

theorem State.getLsbD_statusWord_drop (s : State) : s.statusWord.getLsbD 6 = s.drop := by
  obtain ⟨-, -, -, -, -, -, drop, -⟩ := statusLayout s
  exact drop

/-- A `STATUS` word with `DROP` and another word in `CMD` than the line's: the command never ran (rule R214). -/
theorem tellOutcome_of_drop {s : State} {word status : Word} (hd : status.getLsbD 6 = true) (hw : word ≠ s.cmd) :
    tellOutcome word status s = (.neverRan, (s.grant 0).respond (.data s.cmd)) := by
  have told : s.perform (readEvent 0x000) = (s.grant 0).respond (.data s.cmd) := State.perform_read rfl
  have dropped : readOutcome word status s.cmd = .neverRan := if_pos ⟨hd, hw.symm⟩
  rw [tellOutcome, if_pos hd, told]
  exact congrArg (·, _) dropped

/-- The loop of rule R214 ends at its first poll of a block without a command in flight. -/
theorem pollStatus_of_not_busy {s : State} (h : s.busy = false) (n : Nat) (rest : List Nat) :
    pollStatus (n :: rest) s = some (s.statusWord, (s.grant n).respond (.data s.statusWord)) := by
  have idle : ((s.grant n).respond (.data s.statusWord)).busy = false := h
  rw [pollStatus_cons, h, if_neg Bool.false_ne_true, runEngine_of_not_busy idle]

/-- A command line's write in phase `FAULT` is dropped (rule R206). -/
theorem State.perform_command_of_err {s : State} (he : s.err = true) (w : Word) (n : Nat) :
    s.perform { access := .write 0x000 4 w, turns := n } = (s.grant n).dropWrite := by
  have idle : (s.grant n).dropWrite.busy = false := State.busy_of_err he
  rw [State.perform_command (n := n) (commandWrite_of_not_idle (s := s.grant n) (State.phase_ne_idle (.inr he)) w),
    runEngine_of_not_busy idle]

/-- A command line whose write was dropped without a command in flight ends at its first poll (rule R214). -/
theorem lineCommand_of_dropped {s u : State} {w : Word} {n : Nat}
    (written : s.perform { access := .write 0x000 4 w, turns := n } = u) (idle : u.busy = false) (hd : u.drop = true)
    (hw : w ≠ u.cmd) (m : Nat) (rest : List Nat) :
    ∃ t, lineCommand w n (m :: rest) s = some (.neverRan, t) ∧ t.cmd = u.cmd ∧ t.phase = u.phase := by
  have dropBit : u.statusWord.getLsbD 6 = true := u.getLsbD_statusWord_drop.trans hd
  simp only [lineCommand, written, pollStatus_of_not_busy idle]
  exact ⟨_, congrArg some (tellOutcome_of_drop dropBit hw), rfl, rfl⟩

/-- Settles O58: the write is dropped, which sets `DROP` and leaves `CMD`; the faulted block is not `BUSY`, so the first
poll ends the loop. -/
theorem commandLineTellsDroppedCommand : Obligations.CommandLineTellsDroppedCommand := by
  intro s w n m rest he hw
  have idle : (s.grant n).dropWrite.busy = false := State.busy_of_err he
  exact lineCommand_of_dropped (State.perform_command_of_err he w n) idle rfl hw m rest

end Sys2Proof.Machine
end

section
/-! PROOFS. The decoder and the encoder (rules R81, R83, R84, R86, R96, R97): the masks of the table as the fields of a
word, the fields of an assembled word, and what decoding and encoding say of each other. -/

namespace Sys2Proof

/-! The masks of rule R84 as masks of fields. -/

/-- The bits `lo+len-1 : lo` of a word. -/
def fieldMask (lo len : Nat) : Word := BitVec.ofNat 32 (2 ^ len - 1) <<< lo

theorem getLsbD_fieldMask (lo len : Nat) {j : Nat} (hj : j < 32) :
    (fieldMask lo len).getLsbD j = decide (lo ≤ j ∧ j < lo + len) := by
  rw [fieldMask, BitVec.getLsbD_shiftLeft, BitVec.getLsbD_ofNat, Nat.testBit_two_pow_sub_one, Bool.eq_iff_iff]
  simp
  omega

/-- Two words agree under the mask of a field exactly when they agree in the field. -/
theorem and_fieldMask_eq_iff {lo len : Nat} (h : lo + len ≤ 32) (v w : Word) :
    v &&& fieldMask lo len = w &&& fieldMask lo len ↔ bitField lo len v = bitField lo len w := by
  constructor
  · intro hm
    refine Nat.eq_of_testBit_eq fun j => ?_
    rw [Machine.testBit_bitField, Machine.testBit_bitField]
    by_cases hj : j < len
    · have bit := congrArg (·.getLsbD (lo + j)) hm
      simpa [getLsbD_fieldMask lo len (show lo + j < 32 by omega), hj, Nat.add_comm j lo] using bit
    · simp [hj]
  · intro hf
    refine BitVec.eq_of_getLsbD_eq fun j hj => ?_
    rw [BitVec.getLsbD_and, BitVec.getLsbD_and, getLsbD_fieldMask lo len hj]
    by_cases inside : lo ≤ j ∧ j < lo + len
    · have bit := congrArg (·.testBit (j - lo)) hf
      simpa [Machine.testBit_bitField, Nat.sub_add_cancel inside.1, show j - lo < len by omega, inside] using bit
    · rw [decide_eq_false inside, Bool.and_false, Bool.and_false]

/-- Two words agree under the union of two masks exactly when they agree under each. -/
theorem and_or_eq_iff (v w m n : Word) :
    v &&& (m ||| n) = w &&& (m ||| n) ↔ v &&& m = w &&& m ∧ v &&& n = w &&& n := by
  have under {k : Word} (hk : (m ||| n) &&& k = k) (h : v &&& (m ||| n) = w &&& (m ||| n)) : v &&& k = w &&& k := by
    rw [← hk, ← BitVec.and_assoc, h, BitVec.and_assoc]
  constructor
  · exact fun h => ⟨under (by grind) h, under (by grind) h⟩
  · rintro ⟨hm, hn⟩
    rw [BitVec.and_or_distrib_left, hm, hn, BitVec.and_or_distrib_left]

/-- The bits of a register field that its mask fixes: all of them where the field is not used (rule R83). -/
def unusedMask (used : Bool) (lo : Nat) : Word := if used then 0 else fieldMask lo 3

/-- The bits that rules R83 and R96 fix: the opcode, bits 31:20 and every field that is not used. -/
def UsedFields.fixedBits (u : UsedFields) : Word :=
  fieldMask 0 8 ||| fieldMask 20 12 ||| unusedMask u.rd 8 ||| unusedMask u.ra 11 ||| unusedMask u.rb 14
    ||| unusedMask u.rm 17

/-! The rows of rule R84. -/

theorem Row.mem_all (r : Row) : r ∈ Row.all := by cases r <;> decide

theorem Row.pattern_lt (r : Row) : r.pattern.toNat < 2 ^ 8 := by cases r <;> decide

theorem Row.pattern_injective {a b : Row} (h : a.pattern = b.pattern) : a = b := by
  have distinct : ∀ x ∈ Row.all, ∀ y ∈ Row.all, x.pattern = y.pattern → x = y := by decide
  exact distinct a a.mem_all b b.mem_all h

/-- The opcode of a row is assigned, and its mask fixes what rules R83 and R96 fix. -/
theorem Row.usedFields_pattern (r : Row) :
    ∃ u, usedFields r.pattern.toNat = some u ∧ r.mask = u.fixedBits := by
  cases r <;> exact ⟨_, rfl, by decide⟩

/-- Every assigned opcode is the opcode of a row. -/
theorem exists_row_of_usedFields {n : Nat} {u : UsedFields} (h : usedFields n = some u) :
    ∃ r : Row, n = r.pattern.toNat := by
  unfold usedFields at h
  split at h
  · exact ⟨.nop, rfl⟩
  · exact ⟨.modmul, rfl⟩
  · exact ⟨.modexp, rfl⟩
  · exact ⟨.gcd, rfl⟩
  · exact ⟨.modinv, rfl⟩
  · exact ⟨.isprime, rfl⟩
  · exact ⟨.makeprime, rfl⟩
  · exact ⟨.seed, rfl⟩
  · exact ⟨.rngclr, rfl⟩
  · exact ⟨.rndbits, rfl⟩
  · exact ⟨.rnduni, rfl⟩
  · cases h

theorem Row.bitField_pattern (r : Row) {lo : Nat} (h : 8 ≤ lo) (len : Nat) : bitField lo len r.pattern = 0 := by
  have small : r.pattern.toNat < 2 ^ lo := r.pattern_lt.trans_le (Nat.pow_le_pow_right (by decide) h)
  rw [bitField, Nat.div_eq_of_lt small, Nat.zero_mod]

/-- A word agrees with a row's pattern in the bits fixed of a field: the field is used, or it is 0. -/
theorem Row.and_unusedMask_eq_iff (r : Row) (used : Bool) {lo : Nat} (h8 : 8 ≤ lo) (h32 : lo + 3 ≤ 32) (w : Word) :
    w &&& unusedMask used lo = r.pattern &&& unusedMask used lo ↔ usedOrZero used (bitField lo 3 w) = true := by
  cases used with
  | true => simp [unusedMask, usedOrZero]
  | false => simp [unusedMask, usedOrZero, and_fieldMask_eq_iff h32, r.bitField_pattern h8]

/-- A row's mask selects exactly the words of its opcode that are legal field by field (rules R83, R84, R96). -/
theorem Row.selects_iff (r : Row) (w : Word) :
    r.selects w = true ↔ bitField 0 8 w = r.pattern.toNat ∧ wordWellFormed w = true := by
  obtain ⟨u, used, mask⟩ := r.usedFields_pattern
  have opcode : bitField 0 8 r.pattern = r.pattern.toNat := by
    rw [bitField, Nat.pow_zero, Nat.div_one, Nat.mod_eq_of_lt r.pattern_lt]
  have pattern : r.pattern = r.pattern &&& r.mask := by cases r <;> decide
  have fields : r.selects w = true ↔
      bitField 0 8 w = r.pattern.toNat ∧ bitField 20 12 w = 0 ∧ usedOrZero u.rd (bitField 8 3 w) = true
        ∧ usedOrZero u.ra (bitField 11 3 w) = true ∧ usedOrZero u.rb (bitField 14 3 w) = true
        ∧ usedOrZero u.rm (bitField 17 3 w) = true := by
    rw [Row.selects, beq_iff_eq]
    conv_lhs => rw [pattern, mask, UsedFields.fixedBits]
    simp (disch := decide) only [and_or_eq_iff, and_fieldMask_eq_iff, r.and_unusedMask_eq_iff, r.bitField_pattern,
      opcode, and_assoc]
  rw [fields]
  refine and_congr_right fun hop => ?_
  simp only [wordWellFormed, hop, used, Bool.and_eq_true, beq_iff_eq, and_assoc]

/-- A legal word is selected by the row of its opcode. -/
theorem exists_row_iff_wordWellFormed (w : Word) : (∃ r : Row, r.selects w = true) ↔ wordWellFormed w = true := by
  constructor
  · rintro ⟨r, hr⟩
    exact ((r.selects_iff w).1 hr).2
  · intro legal
    have assigned : ∃ u, usedFields (bitField 0 8 w) = some u := by
      unfold wordWellFormed at legal
      split at legal
      · cases legal
      · exact ⟨_, ‹_›⟩
    obtain ⟨u, hu⟩ := assigned
    obtain ⟨r, hr⟩ := exists_row_of_usedFields hu
    exact ⟨r, (r.selects_iff w).2 ⟨hr, legal⟩⟩

/-- Settles O5: both rows have the opcode of the word. -/
theorem rowsAreDisjoint : Obligations.RowsAreDisjoint := by
  intro w a b ha hb
  obtain ⟨opcodeA, -⟩ := (a.selects_iff w).1 ha
  obtain ⟨opcodeB, -⟩ := (b.selects_iff w).1 hb
  exact Row.pattern_injective (BitVec.eq_of_toNat_eq (opcodeA.symm.trans opcodeB))

/-! The decoder (rule R86). -/

/-- The decoder answers the command of the row that selects the word. -/
theorem decode_eq_ok_iff (w : Word) (i : Instr) :
    decode w = .ok i ↔ ∃ r : Row, r.selects w = true ∧ r.command w = i := by
  unfold decode
  cases found : Row.all.find? (fun r : Row => r.selects w) with
  | none =>
    have unselected (r : Row) : ¬ r.selects w = true := List.find?_eq_none.1 found r r.mem_all
    simp [unselected]
  | some a =>
    have ha : a.selects w = true := List.find?_some (p := fun r : Row => r.selects w) found
    constructor
    · rintro ⟨⟩
      exact ⟨a, ha, rfl⟩
    · rintro ⟨r, hr, rfl⟩
      rw [rowsAreDisjoint w r a hr ha]

/-- Settles O4: a word decodes when a row selects it, that is when it is legal. -/
theorem decoderAcceptsExactlyLegalWords : Obligations.DecoderAcceptsExactlyLegalWords := by
  intro w
  rw [← exists_row_iff_wordWellFormed]
  simp only [decode_eq_ok_iff]
  exact ⟨fun ⟨_, r, hr, _⟩ => ⟨r, hr⟩, fun ⟨r, hr⟩ => ⟨_, r, hr, rfl⟩⟩

/-! The fields of an assembled word (rule R81). -/

theorem regField_val (lo : Nat) (w : Word) : (regField lo w).val = bitField lo 3 w := rfl

/-- The fields of an assembled word do not overlap: its value is the sum of its fields at their places. -/
theorem assemble_toNat (r : Row) (rd ra rb rm : Reg) :
    (assemble r rd ra rb rm).toNat
      = r.pattern.toNat + rd.val * 2 ^ 8 + ra.val * 2 ^ 11 + rb.val * 2 ^ 14 + rm.val * 2 ^ 17 := by
  have hop := r.pattern_lt
  have placed (lo : Nat) (x : Reg) (hlo : lo ≤ 17) : (BitVec.ofNat 32 x.val <<< lo).toNat = 2 ^ lo * x.val := by
    have small : 2 ^ lo * x.val ≤ 2 ^ 17 * 7 :=
      Nat.mul_le_mul (Nat.pow_le_pow_right (by decide) hlo) (Nat.le_of_lt_succ x.isLt)
    rw [BitVec.toNat_shiftLeft, BitVec.toNat_ofNat, Nat.mod_eq_of_lt (x.isLt.trans (by decide)), Nat.shiftLeft_eq,
      Nat.mul_comm, Nat.mod_eq_of_lt (small.trans_lt (by decide))]
  have joined (lo x y : Nat) (hy : y < 2 ^ lo) : y ||| 2 ^ lo * x = y + x * 2 ^ lo := by
    rw [Nat.or_comm, ← Nat.two_pow_add_eq_or_of_lt hy, Nat.add_comm, Nat.mul_comm]
  simp only [assemble, BitVec.toNat_or]
  rw [placed 8 rd (by decide), placed 11 ra (by decide), placed 14 rb (by decide), placed 17 rm (by decide),
    joined 8 _ _ hop, joined 11 _ _ (by omega), joined 14 _ _ (by omega), joined 17 _ _ (by omega)]

@[simp] theorem fields_assemble (r : Row) (rd ra rb rm : Reg) :
    rdField (assemble r rd ra rb rm) = rd ∧ raField (assemble r rd ra rb rm) = ra
      ∧ rbField (assemble r rd ra rb rm) = rb ∧ rmField (assemble r rd ra rb rm) = rm := by
  have := r.pattern_lt
  simp only [Fin.ext_iff, rdField, raField, rbField, rmField, regField_val, bitField, assemble_toNat]
  omega

/-- A word with bits 31:20 zero is assembled from its own fields. -/
theorem assemble_fields {r : Row} {w : Word} (hop : bitField 0 8 w = r.pattern.toNat) (upper : bitField 20 12 w = 0) :
    assemble r (rdField w) (raField w) (rbField w) (rmField w) = w := by
  apply BitVec.eq_of_toNat_eq
  simp only [assemble_toNat, ← hop, rdField, raField, rbField, rmField, regField_val]
  unfold bitField at upper ⊢
  omega

/-! Encoding and decoding. -/

/-- The word of a command is selected by the command's row. -/
theorem row_selects_encode (i : Instr) : i.row.selects (encode i) = true := by
  cases i with
  | nop => exact Laws.EncodedWord.nop.1
  | modmul rd ra rb rm => exact (Laws.EncodedWord.modmul rd ra rb rm).1
  | modexp rd ra rb rm => exact (Laws.EncodedWord.modexp rd ra rb rm).1
  | gcd rd ra rb => exact (Laws.EncodedWord.gcd rd ra rb).1
  | modinv rd ra rm => exact (Laws.EncodedWord.modinv rd ra rm).1
  | isprime ra => exact (Laws.EncodedWord.isprime ra).1
  | makeprime rd => exact (Laws.EncodedWord.makeprime rd).1
  | seed ra => exact (Laws.EncodedWord.seed ra).1
  | rngclr => exact Laws.EncodedWord.rngclr.1
  | rndbits rd => exact (Laws.EncodedWord.rndbits rd).1
  | rnduni rd ra => exact (Laws.EncodedWord.rnduni rd ra).1

/-- The command's row reads the command's own fields back from its word. -/
theorem row_command_encode (i : Instr) : i.row.command (encode i) = i := by
  cases i <;> simp [Instr.row, Row.command, encode]

/-- Settles O2: the command's row selects its word, and reads its fields back. -/
theorem decodeOfEncode : Obligations.DecodeOfEncode := fun i =>
  (decode_eq_ok_iff _ i).2 ⟨i.row, row_selects_encode i, row_command_encode i⟩

/-- The word of a row's command has the word's used fields, and 0 for the others (rule R83). -/
theorem encode_command {r : Row} {u : UsedFields} (hu : usedFields r.pattern.toNat = some u) (w : Word) :
    encode (r.command w)
      = assemble r (if u.rd then rdField w else 0) (if u.ra then raField w else 0) (if u.rb then rbField w else 0)
          (if u.rm then rmField w else 0) := by
  cases r <;> cases hu <;> rfl

/-- A field that is 0 where it is not used is the same with or without the condition (rule R83). -/
theorem usedField_eq {used : Bool} {lo : Nat} {w : Word} (h : usedOrZero used (bitField lo 3 w) = true) :
    (if used then regField lo w else 0) = regField lo w := by
  cases used with
  | true => rfl
  | false =>
    have zero : bitField lo 3 w = 0 := by simpa [usedOrZero] using h
    exact Fin.ext zero.symm

/-- Settles O3: the row that selects the word fixes every bit that its command does not read. -/
theorem encodeOfDecode : Obligations.EncodeOfDecode := by
  intro w i hd
  obtain ⟨r, hr, rfl⟩ := (decode_eq_ok_iff w i).1 hd
  obtain ⟨hop, legal⟩ := (r.selects_iff w).1 hr
  obtain ⟨u, hu, -⟩ := r.usedFields_pattern
  simp only [wordWellFormed, hop, hu, Bool.and_eq_true, beq_iff_eq] at legal
  obtain ⟨⟨⟨⟨upper, hrd⟩, hra⟩, hrb⟩, hrm⟩ := legal
  rw [encode_command hu, rdField, raField, rbField, rmField, usedField_eq hrd, usedField_eq hra, usedField_eq hrb,
    usedField_eq hrm]
  exact assemble_fields hop upper

/-- Settles O1: the fifteen words are decoded. -/
theorem workedEncodingsDecode : Obligations.WorkedEncodingsDecode := by
  unfold Obligations.WorkedEncodingsDecode
  decide

end Sys2Proof
end

section
/-! PROOFS. An accepted `CMD` write and what the polling loop of its command line tells (rules R96, R98, R205, R208, R214,
R253). -/

namespace Sys2Proof.Machine

/-! An illegal command word (rules R96, R205). -/

theorem commandWrite_of_reject {s : State} {v : Word} {r : Reject} (idle : s.phase = .idle) (hd : decode v = .error r) :
    commandWrite v s = .next ((s.accept v).raiseFault .illegalCmd) := by
  simp only [commandWrite, idle, hd]

/-- Settles O9: the write is accepted in phase `IDLE`, and its word is refused. -/
theorem illegalCommandFaults : Obligations.IllegalCommandFaults := by
  intro s w r n rest hh idle hd
  exact (step_commandWrite hh rfl).trans (commandWrite_of_reject (s := s.arrive rest n) idle hd)

/-! From acceptance to the end of a command line (rules R205, R208, R214). -/

/-- `s` follows the acceptance of `w` with no access but reads since: `CMD` holds `w`, no write has been dropped, and in
phase `IDLE` the command is completed. -/
structure State.Follows (w : Word) (s : State) : Prop where
  cmd : s.cmd = w
  drop : s.drop = false
  done : s.phase = .idle → s.done = true

variable {w : Word} {s t : State}

theorem State.Follows.event (h : s.Follows w) : (engineEvent s).Follows w := by
  have fixed := engineEvent_fixed s
  refine ⟨fixed.cmd.trans h.cmd, fixed.drop.trans h.drop, ?_⟩
  cases hb : s.busy with
  | false =>
    rw [engineEvent_of_not_busy hb]
    exact h.done
  | true => exact fun idle => (completionSetsDone s hb (State.busy_eq_false.2 (.inl idle))).1

theorem State.Follows.events (h : s.Follows w) (n : Nat) : (runEngine n s).Follows w :=
  runEngine_induction (P := State.Follows w) (fun _ => State.Follows.event) h n

/-- The answer to a read changes nothing that `State.Follows` speaks of. -/
theorem State.Follows.answered (h : s.Follows w) (n : Nat) (r : Response) : ((s.grant n).respond r).Follows w :=
  ⟨h.cmd, h.drop, h.done⟩

/-- Acceptance, the fault entry or issue, and the engine events after it (rules R96, R205). -/
theorem State.follows_of_commandWrite (idle : s.phase = .idle) (hd : s.drop = false)
    (written : commandWrite w s = .next t) : t.Follows w := by
  have faulted (c : FaultCode) : ((s.accept w).raiseFault c).Follows w := ⟨rfl, hd, nofun⟩
  rcases commandWrite_cases w s with ⟨-, i, -, accepted⟩ | ⟨-, r, -, refused⟩ | ⟨notIdle, -⟩
  · rcases exec_next (accepted.symm.trans written) with ⟨c, rfl⟩ | ⟨job, -, rfl⟩
    · exact faulted c
    · have issued : ((s.accept w).runJob job).Follows w := ⟨rfl, hd, nofun⟩
      exact issued.events _
  · cases refused.symm.trans written
    exact faulted .illegalCmd
  · exact absurd idle notIdle

/-- The write of a command line on an idle block without `DROP`. -/
theorem State.follows_of_perform (idle : s.phase = .idle) (hd : s.drop = false) (w : Word) (n : Nat) :
    (s.perform { access := .write 0x000 4 w, turns := n }).Follows w := by
  obtain ⟨t, written⟩ : ∃ t, commandWrite w (s.grant n) = .next t := access_exists (.write 0x000 4 w) (s.grant n)
  rw [State.perform_command written]
  exact State.follows_of_commandWrite (s := s.grant n) idle hd written

/-- The loop ends without a command in flight, on the `STATUS` word of the state in which it ends (rule R214). -/
theorem State.Follows.polled {polls : List Nat} {status : Word} (h : s.Follows w)
    (ends : pollStatus polls s = some (status, t)) : t.Follows w ∧ t.busy = false ∧ status = t.statusWord := by
  induction polls generalizing s with
  | nil => cases ends
  | cons n rest ih =>
    cases hb : s.busy with
    | true =>
      rw [pollStatus_cons, if_pos hb] at ends
      exact ih ((h.answered n _).events n) ends
    | false =>
      rw [pollStatus_of_not_busy hb] at ends
      cases ends
      exact ⟨h.answered n _, hb, rfl⟩

/-- Without `DROP` the outcome is read from `ERR` and `ERRCODE` (rule R214). -/
theorem tellOutcome_statusWord (hd : s.drop = false) (w : Word) :
    tellOutcome w s.statusWord s = (if s.err then .faulted s.errCode else .completed, s) := by
  obtain ⟨-, -, err, -, -, -, drop, -, code, -⟩ := statusLayout s
  have noDrop : ¬ s.statusWord.getLsbD 6 = true := by rw [drop, hd]; exact Bool.false_ne_true
  rw [tellOutcome, if_neg noDrop, readOutcome, if_neg (fun h => noDrop h.1), err, code]

/-- Settles O57: `State.Follows` holds from the write to the end of the loop, whose outcome is read from the `STATUS` word
of that end. -/
theorem commandLineReportsTheOutcome : Obligations.CommandLineReportsTheOutcome := by
  intro s w n idle hd
  have follows := State.follows_of_perform idle hd w n
  refine ⟨fun m rest ended => ?_, fun polls outcome t line => ?_⟩
  · rw [lineCommand, pollStatus_of_not_busy ended]
    exact ⟨_, rfl⟩
  · cases ends : pollStatus polls (s.perform { access := .write 0x000 4 w, turns := n }) with
    | none =>
      rw [lineCommand, ends] at line
      cases line
    | some last =>
      obtain ⟨status, u⟩ := last
      obtain ⟨hu, ended, rfl⟩ := follows.polled ends
      have told : lineCommand w n polls s = some (if u.err then .faulted u.errCode else .completed, u) := by
        rw [lineCommand, ends]
        exact congrArg some (tellOutcome_statusWord hu.drop w)
      cases told.symm.trans line
      refine ⟨ended, hu.cmd, ?_⟩
      rcases State.busy_eq_false.1 ended with idle | ⟨c, fault⟩
      · have noErr : t.err = false := State.err_eq_false.2 (.inl idle)
        exact .inl ⟨by rw [noErr]; rfl, hu.done idle, noErr⟩
      · have err : t.err = true := State.err_eq_true.2 ⟨c, fault⟩
        exact .inr ⟨c, fault, by rw [err, if_pos rfl, State.errCode, fault]⟩

end Sys2Proof.Machine
end

section
/-! PROOFS. The size of the Bezout coefficient of `MODINV` (rules R142, R143). -/

namespace Sys2Proof.Machine

/-- The extended loop's size invariant (rule R142): the coefficients are of opposite sign and `|t1| * r + |t| * r1` stays
`n`, so that `|t1|`, which is the next `|t|`, is at most `n / r`. While the loop is enabled and `n >= 2`, `r` is at least 2,
which makes the next `|t|` less than `n`. -/
structure InvWork.CoefficientsBounded (w : InvWork) : Prop where
  opposite : w.t * w.t1 ≤ 0
  balance : w.t1.natAbs * w.r + w.t.natAbs * w.r1 = w.n
  r_pos : 0 < w.r
  two_le_r : w.r1 ≠ 0 → 2 ≤ w.n → 2 ≤ w.r
  t_le : w.t.natAbs ≤ w.n
  t_lt : 2 ≤ w.n → w.t.natAbs < w.n

theorem invStart_coefficientsBounded (a : Nat) {n : Nat} (hn : 1 ≤ n) : (invStart a n).CoefficientsBounded where
  opposite := by simp [invStart]
  balance := by simp [invStart]
  r_pos := hn
  two_le_r := fun _ two => two
  t_le := Nat.zero_le n
  t_lt := fun _ => hn

/-- Subtracting a multiple of a number of the opposite sign adds the magnitudes. -/
theorem natAbs_sub_natCast_mul {t t1 : Int} (q : Nat) (h : t * t1 ≤ 0) :
    (t - q * t1).natAbs = t.natAbs + q * t1.natAbs := by
  have hq : (0 : Int) ≤ q := Int.natCast_nonneg q
  have size : ((q : Int) * t1).natAbs = q * t1.natAbs := by rw [Int.natAbs_mul, Int.natAbs_natCast]
  rcases mul_nonpos_iff.1 h with ⟨ht, ht1⟩ | ⟨ht, ht1⟩
  · have := mul_nonpos_of_nonneg_of_nonpos hq ht1
    omega
  · have := mul_nonneg hq ht1
    omega

theorem InvWork.CoefficientsBounded.t1_mul_r_le {w : InvWork} (h : w.CoefficientsBounded) :
    w.t1.natAbs * w.r ≤ w.n :=
  (Nat.le_add_right _ _).trans_eq h.balance

/-- An iteration keeps the opposite signs: it subtracts a multiple of `t1` from `t`. -/
theorem InvWork.CoefficientsBounded.step_opposite {w : InvWork} (h : w.CoefficientsBounded) :
    (invStep w).t * (invStep w).t1 ≤ 0 := by
  have square : 0 ≤ ((w.r / w.r1 : Nat) : Int) * (w.t1 * w.t1) := mul_nonneg (Int.natCast_nonneg _) (mul_self_nonneg _)
  calc w.t1 * (w.t - (w.r / w.r1 : Nat) * w.t1)
      = w.t * w.t1 - (w.r / w.r1 : Nat) * (w.t1 * w.t1) := by ring
    _ ≤ 0 := by have := h.opposite; omega

/-- What the quotient adds to the new `|t1|` is what it takes from `r`. -/
theorem InvWork.CoefficientsBounded.step_balance {w : InvWork} (h : w.CoefficientsBounded) :
    (invStep w).t1.natAbs * (invStep w).r + (invStep w).t.natAbs * (invStep w).r1 = w.n := by
  rw [invStep_t1, natAbs_sub_natCast_mul _ h.opposite, invStep_r1]
  calc (w.t.natAbs + w.r / w.r1 * w.t1.natAbs) * w.r1 + w.t1.natAbs * (w.r % w.r1)
      = w.t1.natAbs * (w.r1 * (w.r / w.r1) + w.r % w.r1) + w.t.natAbs * w.r1 := by ring
    _ = w.n := by rw [Nat.div_add_mod, h.balance]

theorem InvWork.CoefficientsBounded.step {w : InvWork} (h : w.CoefficientsBounded) (enabled : w.r1 ≠ 0) :
    (invStep w).CoefficientsBounded where
  opposite := h.step_opposite
  balance := h.step_balance
  r_pos := Nat.pos_of_ne_zero enabled
  two_le_r := fun more _ => by
    have smaller := Nat.mod_lt w.r (Nat.pos_of_ne_zero enabled)
    rw [invStep_r1] at more
    show 2 ≤ w.r1
    omega
  t_le := (Nat.le_mul_of_pos_right _ h.r_pos).trans h.t1_mul_r_le
  t_lt := fun (two : 2 ≤ w.n) => by
    have doubled : w.t1.natAbs * 2 ≤ w.n := (Nat.mul_le_mul_left _ (h.two_le_r enabled two)).trans h.t1_mul_r_le
    show w.t1.natAbs < w.n
    omega

/-- As long as the loop is enabled, the size invariant holds after every iteration. -/
theorem InvWork.CoefficientsBounded.iterate {w : InvWork} (h : w.CoefficientsBounded) {k : Nat}
    (more : ∀ j, j < k → (invStep^[j] w).r1 ≠ 0) : (invStep^[k] w).CoefficientsBounded := by
  induction k with
  | zero => exact h
  | succ k ih =>
    rw [Function.iterate_succ_apply']
    exact (ih fun j hj => more j (hj.trans k.lt_succ_self)).step (more k k.lt_succ_self)

/-- Settles O35: the size invariant holds from issue to the end of the loop. -/
theorem bezoutCoefficientBounded : Obligations.BezoutCoefficientBounded := by
  intro a n k hn _ more
  have bounded := (invStart_coefficientsBounded a hn).iterate more
  have modulus := (invStep_iterate_latches a n k).2
  have hle := bounded.t_le
  have hlt := bounded.t_lt
  rw [modulus] at hle hlt
  exact ⟨hle, hlt⟩

end Sys2Proof.Machine
end

section
/-! PROOFS. The primality tester (rules R155 to R168, R209, R288): the steps of a test against the rounds of rule R165,
and what `ISPRIME` ends in. -/

namespace Sys2Proof.Machine

open Relation (ReflTransGen)

/-! Runs of engine events, whatever their number. -/

/-- No event of a command in flight reads the model's own `turns` or writes it (log entry 4). -/
theorem jobEvent_grant (job : Job) (s : State) (n : Nat) : jobEvent job (s.grant n) = (jobEvent job s).grant n := by
  cases job with
  | nop | modmul | seed | rngclr => rfl
  | modexp | gcd | modinv | rndbits | rnduni => simp only [jobEvent, State.grant_rng]; split <;> rfl
  | isprime t => simp only [jobEvent, primalityEvent, State.grant_rng]; split <;> rfl
  | makeprime rd w k search =>
    cases search with
    | none => simp only [jobEvent, searchEvent, State.grant_rng]; split <;> rfl
    | some t => simp only [jobEvent, searchEvent, State.grant_rng]; split <;> rfl

theorem engineEvent_grant (s : State) (n : Nat) : engineEvent (s.grant n) = (engineEvent s).grant n := by
  cases hp : s.phase with
  | idle => rw [engineEvent_idle hp, engineEvent_idle (s := s.grant n) hp]
  | fault c => rw [engineEvent_fault hp, engineEvent_fault (s := s.grant n) hp]
  | run job => rw [engineEvent_run hp, engineEvent_run (s := s.grant n) hp, jobEvent_grant]

theorem runEngine_grant (m : Nat) (s : State) (n : Nat) : runEngine m (s.grant n) = (runEngine m s).grant n := by
  induction m generalizing s with
  | zero => rfl
  | succ m ih => rw [runEngine_succ, engineEvent_grant, ih, runEngine_succ]

/-- Engine events, some number of them, lead from the first state to the second (rule R207). -/
abbrev EngineReaches : State → State → Prop := ReflTransGen fun s t => engineEvent s = t

theorem EngineReaches.exists_runEngine {s t : State} (h : EngineReaches s t) : ∃ m, runEngine m s = t := by
  induction h using ReflTransGen.head_induction_on with
  | refl => exact ⟨0, rfl⟩
  | head event _ ih =>
    obtain ⟨m, hm⟩ := ih
    exact ⟨m + 1, by rw [runEngine_succ, event, hm]⟩

/-- A command that issue admits, and that reaches a state without a command in flight, ends in that state. -/
theorem EngineReaches.endsIn {i : Instr} {job : Job} {s t : State}
    (admitted : ∀ n, exec i (s.grant n) = issue none job (s.grant n)) (h : EngineReaches (s.runJob job) t)
    (idle : t.busy = false) : EndsIn i s t := by
  obtain ⟨m, hm⟩ := h.exists_runEngine
  refine ⟨m, fun n hn => ?_⟩
  obtain ⟨d, rfl⟩ : ∃ d, n = m + d := ⟨n - m, by omega⟩
  have reached : runEngine m ((s.grant (m + d)).runJob job) = t.grant (m + d) :=
    (runEngine_grant m (s.runJob job) (m + d)).trans (by rw [hm])
  rw [admitted, issue_none, State.grant_turns, runEngine_add, reached,
    runEngine_of_not_busy (s := t.grant (m + d)) idle]

/-- A command in flight after `m` events has been in flight all along. -/
theorem runEngine_busy_of_le {s : State} {j m : Nat} (hj : j ≤ m) (h : (runEngine m s).busy = true) :
    (runEngine j s).busy = true := by
  obtain ⟨d, rfl⟩ : ∃ d, m = j + d := ⟨m - j, by omega⟩
  by_contra stopped
  rw [Bool.not_eq_true] at stopped
  rw [runEngine_add, runEngine_of_not_busy stopped, stopped] at h
  cases h

/-! Runs of a test's steps (rule R162), and the commands in flight that make them. -/

/-- Steps of a test, some number of them, lead from the first test and source to the second. -/
abbrev TestReaches : PrimeTest × Option Source → PrimeTest × Option Source → Prop :=
  ReflTransGen fun p q => testEvent p.1 p.2 = q

theorem TestReaches.n_eq {p q : PrimeTest × Option Source} (h : TestReaches p q) : q.1.n = p.1.n := by
  induction h with
  | refl => rfl
  | tail _ event ih =>
    obtain ⟨hn, -⟩ := testEvent_fixed _ _
    rw [← event, hn, ih]

/-- From the test `t` and the source `rng` the steps lead to the verdict `prime`, with the source `rng'`. -/
def TestEnds (t : PrimeTest) (rng : Option Source) (prime : Bool) (rng' : Option Source) : Prop :=
  ∃ u : PrimeTest, u.stage = .verdict prime ∧ TestReaches (t, rng) (u, rng')

theorem TestEnds.of_reaches {t u : PrimeTest} {rng rng' rng'' : Option Source} {prime : Bool}
    (h : TestReaches (t, rng) (u, rng')) (ends : TestEnds u rng' prime rng'') : TestEnds t rng prime rng'' := by
  obtain ⟨v, hv, rest⟩ := ends
  exact ⟨v, hv, h.trans rest⟩

theorem TestEnds.of_verdict {t : PrimeTest} {prime : Bool} (h : t.stage = .verdict prime) (rng : Option Source) :
    TestEnds t rng prime rng := ⟨t, h, .refl⟩

/-- A command in flight, as a function of its test, whose events before the verdict are the test's steps (rules R162,
R173). -/
def CarriesTest (job : PrimeTest → Job) : Prop :=
  ∀ (t : PrimeTest) (s : State), (∀ v, t.stage ≠ .verdict v) →
    jobEvent (job t) s = (s.setRng (testEvent t s.rng).2).runJob (job (testEvent t s.rng).1)

theorem carriesTest_isprime : CarriesTest .isprime := by
  rintro ⟨n, k, s, r, i, stage⟩ u unfinished
  cases stage with
  | verdict v => exact absurd rfl (unfinished v)
  | draw | pow | square => rfl

theorem carriesTest_makeprime (rd : Reg) (w k : Nat) : CarriesTest fun t => .makeprime rd w k (some t) := by
  rintro ⟨n, k', s, r, i, stage⟩ u unfinished
  cases stage with
  | verdict v => exact absurd rfl (unfinished v)
  | draw | pow | square => rfl

/-- Where a test's steps lead, the events of a command in flight that makes them lead too: at most one event a step, since
after the verdict a test stands still. -/
theorem CarriesTest.reaches {job : PrimeTest → Job} (carries : CarriesTest job) {p q : PrimeTest × Option Source}
    (h : TestReaches p q) (s : State) :
    EngineReaches ((s.setRng p.2).runJob (job p.1)) ((s.setRng q.2).runJob (job q.1)) := by
  refine h.lift' (fun p : PrimeTest × Option Source => (s.setRng p.2).runJob (job p.1)) ?_ _ _
  rintro ⟨t, rng⟩ _ rfl
  by_cases verdict : ∃ v, t.stage = .verdict v
  · obtain ⟨v, hv⟩ := verdict
    have still : testEvent t rng = (t, rng) := by simp only [testEvent, hv]
    simp only [Function.onFun, still]
    exact .refl
  · refine .single ?_
    rw [engineEvent_run rfl, carries t _ (not_exists.1 verdict)]
    rfl

/-! One round (rules R160, R163, R164, R165). -/

/-- The end of a round that passes or does not. -/
def roundEnd (t : PrimeTest) (passes : Bool) : PrimeTest := if passes then roundPassed t else roundFailed t

section
variable {t : PrimeTest} {rng : Option Source}

/-- The inner `powMod` leads to `y = b0^e mod m` (rule R164). -/
theorem pow_reaches (w : ExpWork) (h : w.Ok) (hm : 2 ≤ w.m) :
    TestReaches ({ t with stage := .pow w }, rng) (powEnded t w.b0 (w.b0 ^ w.e % w.m), rng) := by
  induction hx : w.x using Nat.strong_induction_on generalizing w with
  | _ x ih =>
    by_cases last : w.x = 0
    · refine .single ?_
      simp only [testEvent, if_pos last, h.acc_eq hm last]
      rfl
    · have halved : (expStep w).x < x := hx ▸ Nat.div_lt_self (Nat.pos_of_ne_zero last) (by decide)
      refine .head ?_ (ih _ halved (expStep w) h.step hm rfl)
      simp only [testEvent, if_neg last]

/-- Once a power is 1, so are the powers of that power. -/
theorem pow_mul_mod_eq_one {a e n : Nat} (hn : 1 < n) (h : a ^ e % n = 1) (d : Nat) : a ^ (e * d) % n = 1 := by
  rw [pow_mul, Nat.pow_mod, h, one_pow, Nat.mod_eq_of_lt hn]

theorem testEvent_square_passed {a y j : Nat} (pass : y = t.n - 1) :
    testEvent { t with stage := .square a y j } rng = (roundPassed t, rng) := by
  have last : ¬(j + 1 ≤ t.s ∧ y ≠ t.n - 1) := fun h => h.2 pass
  simp only [testEvent, squareStep, if_neg last, if_neg (not_not.2 pass)]
  rfl

theorem testEvent_square_exhausted {a y j : Nat} (unequal : y ≠ t.n - 1) (last : t.s ≤ j) :
    testEvent { t with stage := .square a y j } rng = (roundFailed t, rng) := by
  have hj : ¬(j + 1 ≤ t.s ∧ y ≠ t.n - 1) := by omega
  simp only [testEvent, squareStep, if_neg hj, if_pos unequal]
  rfl

theorem testEvent_square_one {a y j : Nat} (unequal : y ≠ t.n - 1) (more : j < t.s) (one : mulmod y y t.n = 1) :
    testEvent { t with stage := .square a y j } rng = (roundFailed t, rng) := by
  have go : j + 1 ≤ t.s ∧ y ≠ t.n - 1 := ⟨more, unequal⟩
  simp only [testEvent, squareStep, if_pos go, if_pos one]
  rfl

theorem testEvent_square_next {a y j : Nat} (unequal : y ≠ t.n - 1) (more : j < t.s) (one : mulmod y y t.n ≠ 1) :
    testEvent { t with stage := .square a y j } rng
      = ({ t with stage := .square a (mulmod y y t.n) (j + 1) }, rng) := by
  have go : j + 1 ≤ t.s ∧ y ≠ t.n - 1 := ⟨more, unequal⟩
  simp only [testEvent, squareStep, if_pos go, if_neg one]

/-- Some `y_i` with `j <= i <= s - 1` is `n - 1` (rule R165). -/
def PrimeTest.PassesFrom (t : PrimeTest) (a j : Nat) : Prop :=
  ∃ i, j ≤ i ∧ i + 1 ≤ t.s ∧ a ^ (t.r * 2 ^ i) % t.n = t.n - 1

theorem not_passesFrom_of_le {a j : Nat} (last : t.s ≤ j) : ¬t.PassesFrom a j := by
  rintro ⟨i, hi, his, -⟩
  omega

/-- A `y_j` that is 1 leaves only ones after it. -/
theorem not_passesFrom_of_one {a j : Nat} (hn : 2 < t.n) (one : a ^ (t.r * 2 ^ j) % t.n = 1) : ¬t.PassesFrom a j := by
  rintro ⟨i, hi, -, pass⟩
  obtain ⟨e, rfl⟩ : ∃ e, i = j + e := ⟨i - j, by omega⟩
  have one_later := pow_mul_mod_eq_one (by omega) one (2 ^ e)
  rw [mul_assoc, ← pow_add, pass] at one_later
  omega

theorem passesFrom_iff_of_lt {a j : Nat} (more : j < t.s) :
    t.PassesFrom a j ↔ a ^ (t.r * 2 ^ j) % t.n = t.n - 1 ∨ t.PassesFrom a (j + 1) := by
  constructor
  · rintro ⟨i, hi, his, pass⟩
    rcases hi.eq_or_lt with rfl | later
    · exact .inl pass
    · exact .inr ⟨i, later, his, pass⟩
  · rintro (pass | ⟨i, hi, his, pass⟩)
    · exact ⟨j, le_rfl, more, pass⟩
    · exact ⟨i, by omega, his, pass⟩

/-- The squaring loop, entered with `y_(j-1)`, passes the round exactly when this or a later `y_i`, `i <= s - 1`, is
`n - 1` (rules R160, R165). -/
theorem square_reaches (hn : 2 < t.n) {a y j : Nat} (hj : 1 ≤ j) (hy : y = a ^ (t.r * 2 ^ (j - 1)) % t.n) :
    ∃ passes, (passes = true ↔ y = t.n - 1 ∨ t.PassesFrom a j)
      ∧ TestReaches ({ t with stage := .square a y j }, rng) (roundEnd t passes, rng) := by
  induction hd : t.s - j using Nat.strong_induction_on generalizing y j with
  | _ d ih =>
    by_cases pass : y = t.n - 1
    · exact ⟨true, iff_of_true rfl (.inl pass), .single (testEvent_square_passed pass)⟩
    rw [or_iff_right pass]
    by_cases more : j < t.s
    · have hy' : mulmod y y t.n = a ^ (t.r * 2 ^ j) % t.n := by rw [hy]; exact mulmod_squared a t.r t.n hj
      by_cases one : mulmod y y t.n = 1
      · exact ⟨false, iff_of_false nofun (not_passesFrom_of_one hn (hy'.symm.trans one)),
          .single (testEvent_square_one pass more one)⟩
      · obtain ⟨passes, iff, rest⟩ := ih _ (by omega) (Nat.le_add_left 1 j) hy' rfl
        rw [hy', ← passesFrom_iff_of_lt more] at iff
        exact ⟨passes, iff, .head (testEvent_square_next pass more one) rest⟩
    · have last : t.s ≤ j := by omega
      exact ⟨false, iff_of_false nofun (not_passesFrom_of_le last), .single (testEvent_square_exhausted pass last)⟩

/-- There is one decomposition into a power of two and an odd number (rule R163). -/
theorem two_pow_mul_odd_unique {s r s' r' : Nat} (h : 2 ^ s * r = 2 ^ s' * r') (hr : r % 2 = 1) (hr' : r' % 2 = 1) :
    s = s' ∧ r = r' := by
  induction s generalizing s' with
  | zero =>
    cases s' with
    | zero => simpa using h
    | succ s' => rw [pow_zero, one_mul, pow_succ', mul_assoc] at h; omega
  | succ s ih =>
    cases s' with
    | zero => rw [pow_zero, one_mul, pow_succ', mul_assoc] at h; omega
    | succ s' =>
      rw [pow_succ', pow_succ', mul_assoc, mul_assoc] at h
      obtain ⟨rfl, rfl⟩ := ih (Nat.eq_of_mul_eq_mul_left (by decide) h)
      exact ⟨rfl, rfl⟩

/-- Rule R165 for the decomposition at hand. -/
theorem roundPasses_iff {n s r : Nat} (hdec : n - 1 = 2 ^ s * r) (hodd : r % 2 = 1) (a : Nat) :
    RoundPasses n a ↔ a ^ r % n = 1 ∨ a ^ r % n = n - 1 ∨ ∃ j, 1 ≤ j ∧ j + 1 ≤ s ∧ a ^ (r * 2 ^ j) % n = n - 1 := by
  refine ⟨fun ⟨s', r', hdec', hodd', passes⟩ => ?_, fun passes => ⟨s, r, hdec, hodd, passes⟩⟩
  obtain ⟨rfl, rfl⟩ := two_pow_mul_odd_unique (hdec.symm.trans hdec') hodd hodd'
  exact passes

/-- The round of the witness `a`, from the end of the inner `powMod` on (rules R160, R165). -/
theorem powEnded_reaches (h : t.RoundOk) (a : Nat) :
    ∃ passes, (passes = true ↔ RoundPasses t.n a)
      ∧ TestReaches (powEnded t a (a ^ t.r % t.n), rng) (roundEnd t passes, rng) := by
  obtain ⟨hn, -, -, hdec, hodd⟩ := h
  rw [roundPasses_iff hdec hodd a, ← or_assoc]
  by_cases first : a ^ t.r % t.n = 1 ∨ a ^ t.r % t.n = t.n - 1
  · refine ⟨true, iff_of_true rfl (.inl first), ?_⟩
    rw [powEnded, if_pos first]
    exact .refl
  · obtain ⟨passes, iff, rest⟩ := square_reaches (t := t) (rng := rng) (a := a) (y := a ^ t.r % t.n) (j := 1)
      (by omega) le_rfl (by simp)
    rw [or_iff_right (not_or.1 first).2] at iff
    rw [or_iff_right first, powEnded, if_neg first]
    exact ⟨passes, iff, rest⟩

/-- One round, with its draw (rules R160, R164, R165, R166). -/
theorem round_reaches (h : t.RoundOk) (hd : t.stage = .draw) (st : Source) :
    ∃ passes, (passes = true ↔ RoundPasses t.n (2 + (drawUniform st (t.n - 3)).2))
      ∧ TestReaches (t, some st) (roundEnd t passes, some (drawUniform st (t.n - 3)).1) := by
  have hn : 5 ≤ t.n := h.1
  obtain ⟨passes, iff, rest⟩ := powEnded_reaches (rng := some (drawUniform st (t.n - 3)).1) h
    (2 + (drawUniform st (t.n - 3)).2)
  have draw : testEvent t (some st)
      = (witnessDrawn t (drawUniform st (t.n - 3)).2, some (drawUniform st (t.n - 3)).1) := by
    simp only [testEvent, hd]
  have pow := pow_reaches (t := t) (rng := some (drawUniform st (t.n - 3)).1) _
    (expStart_ok (2 + (drawUniform st (t.n - 3)).2) t.r (m := t.n) (by omega)) (by simp only [expStart]; omega)
  exact ⟨passes, iff, .head draw (pow.trans rest)⟩

end

/-! The rounds, and the whole test (rules R160, R165, R166, R167). -/

theorem roundPassed_of_lt {t : PrimeTest} (h : t.i < t.k) : roundPassed t = { t with i := t.i + 1, stage := .draw } :=
  if_pos h

theorem roundPassed_of_last {t : PrimeTest} (h : t.i = t.k) : roundPassed t = { t with stage := .verdict true } :=
  if_neg (by omega)

/-- From the draw of a round after which `m` more may follow, the test ends as these rounds say. -/
theorem rounds_end {t : PrimeTest} {m : Nat} {st st' : Source} {prime : Bool} (h : t.RoundOk) (hd : t.stage = .draw)
    (hm : t.i + m = t.k) (gives : RoundsGive t.n (m + 1) st prime st') : TestEnds t (some st) prime (some st') := by
  obtain ⟨passes, iff, round⟩ := round_reaches h hd st
  rcases gives with ⟨pass, rest⟩ | ⟨fail, rfl, rfl⟩
  · obtain rfl : passes = true := iff.2 pass
    refine .of_reaches round ?_
    cases m with
    | zero =>
      obtain ⟨rfl, rfl⟩ := rest
      exact .of_verdict (congrArg PrimeTest.stage (roundPassed_of_last hm)) _
    | succ m =>
      obtain ⟨hn, hi, hik, hdec, hodd⟩ := h
      rw [roundEnd, if_pos rfl, roundPassed_of_lt (by omega)]
      exact rounds_end ⟨hn, Nat.le_add_left 1 t.i, by simp only; omega, hdec, hodd⟩ rfl (by simp only; omega) rest
  · obtain rfl : passes = false := Bool.eq_false_iff.2 fun pass => fail (iff.1 pass)
    exact .of_reaches round (.of_verdict rfl _)

theorem fastVerdict_of_composite {n : Nat} (h : n = 0 ∨ n = 1 ∨ n = 4) : fastVerdict n = some false := if_pos h

theorem fastVerdict_of_prime {n : Nat} (h : n = 2 ∨ n = 3) : fastVerdict n = some true := by
  rcases h with rfl | rfl <;> rfl

theorem fastVerdict_of_five_le {n : Nat} (h : 5 ≤ n) : fastVerdict n = none := by
  rw [fastVerdict, if_neg (by omega), if_neg (by omega)]

theorem testStart_stage_of_fastVerdict {n : Nat} {v : Bool} (h : fastVerdict n = some v) (k : Nat) :
    (testStart n k).stage = .verdict v := by
  simp only [testStart, h]

theorem testStart_stage_of_five_le {n : Nat} (h : 5 ≤ n) (k : Nat) :
    (testStart n k).stage = if k = 0 then .verdict true else .draw := by
  simp only [testStart, fastVerdict_of_five_le h]

/-- The steps of a test end as the big-step test says (rules R160, R162, R209). -/
theorem testStart_ends {n k : Nat} {rng rng' : Option Source} {prime : Bool} (gives : TestGives n k rng prime rng') :
    TestEnds (testStart n k) rng prime rng' := by
  rcases gives with ⟨hn, rfl, rfl⟩ | ⟨hn, rfl, rfl⟩ | ⟨hn, rfl, rfl, rfl⟩ | ⟨hn, hk, st, st', rfl, rfl, gives⟩
  · exact .of_verdict (testStart_stage_of_fastVerdict (fastVerdict_of_composite hn) k) _
  · exact .of_verdict (testStart_stage_of_fastVerdict (fastVerdict_of_prime hn) k) _
  · exact .of_verdict (testStart_stage_of_five_le hn 0) _
  · obtain ⟨m, rfl⟩ : ∃ m, k = m + 1 := ⟨k - 1, by omega⟩
    have hd : (testStart n (m + 1)).stage = .draw := testStart_stage_of_five_le hn (m + 1)
    have ok : (testStart n (m + 1)).Ok (some st) := testStart_ok fun _ _ => rfl
    simp only [PrimeTest.Ok, hd] at ok
    exact rounds_end ok.1 hd (Nat.add_comm 1 m) gives

/-- The rounds always give a verdict (rule R288). -/
theorem exists_roundsGive (n k : Nat) (st : Source) : ∃ prime st', RoundsGive n k st prime st' := by
  induction k generalizing st with
  | zero => exact ⟨true, st, rfl, rfl⟩
  | succ k ih =>
    by_cases pass : RoundPasses n (2 + (drawUniform st (n - 3)).2)
    · obtain ⟨prime, st', rest⟩ := ih (drawUniform st (n - 3)).1
      exact ⟨prime, st', .inl ⟨pass, rest⟩⟩
    · exact ⟨false, _, .inr ⟨pass, rfl, rfl⟩⟩

/-- A test with a valid source where it draws always gives a verdict, and the source stays valid (rules R254, R288). -/
theorem exists_testGives {n k : Nat} {rng : Option Source} (h : 5 ≤ n → 1 ≤ k → rng.isSome = true) :
    ∃ prime rng', TestGives n k rng prime rng' ∧ rng'.isSome = rng.isSome := by
  by_cases composite : n = 0 ∨ n = 1 ∨ n = 4
  · exact ⟨false, rng, .inl ⟨composite, rfl, rfl⟩, rfl⟩
  by_cases two_three : n = 2 ∨ n = 3
  · exact ⟨true, rng, .inr (.inl ⟨two_three, rfl, rfl⟩), rfl⟩
  have hn : 5 ≤ n := by omega
  by_cases hk : k = 0
  · exact ⟨true, rng, .inr (.inr (.inl ⟨hn, hk, rfl, rfl⟩)), rfl⟩
  · have hk : 1 ≤ k := by omega
    obtain ⟨st, rfl⟩ := Option.isSome_iff_exists.1 (h hn hk)
    obtain ⟨prime, st', gives⟩ := exists_roundsGive n k st
    exact ⟨prime, some st', .inr (.inr (.inr ⟨hn, hk, st, st', rfl, rfl, gives⟩)), rfl⟩

/-! What `ISPRIME` ends in (rules R156, R160, R166, R167, R288). -/

/-- `RNG_UNINIT` is not raised where the test draws nothing or the source is valid (rules R160, R251). -/
theorem isprime_admitted {s : State} {ra : Reg} (h : 5 ≤ s.reg ra → 1 ≤ s.iter.toNat → s.rng.isSome = true) (n : Nat) :
    exec (.isprime ra) (s.grant n) = issue none (.isprime (testStart (s.reg ra) s.iter.toNat)) (s.grant n) := by
  have no_fault : (testDraws (s.reg ra) s.iter.toNat && (s.grant n).rngUninit) = false := by
    by_cases draws : 5 ≤ s.reg ra ∧ 1 ≤ s.iter.toNat
    · have valid : (s.grant n).rngUninit = false := State.rngUninit_eq_false.2 (h draws.1 draws.2)
      rw [valid, Bool.and_false]
    · rw [testDraws, decide_eq_false draws, Bool.false_and]
  exact congrArg (fun f => issue f _ _) (firstFault_cons_eq_none _ _ _ |>.2 ⟨no_fault, rfl⟩)

/-- A test that starts with its verdict is delivered at the first event (log entry 6). -/
theorem isprime_endsAfter_one {s : State} {ra : Reg} {prime : Bool}
    (h : 5 ≤ s.reg ra → 1 ≤ s.iter.toNat → s.rng.isSome = true)
    (verdict : (testStart (s.reg ra) s.iter.toNat).stage = .verdict prime) :
    EndsAfter 1 (.isprime ra) s ((s.setPrime prime).complete) := by
  refine endsAfter_one (isprime_admitted h) (fun n => ?_) rfl
  simp only [jobEvent, primalityEvent, verdict]
  rfl

/-- Settles O36: the fast path and the test without rounds start with their verdict. -/
theorem isprimeWithoutRounds : Obligations.IsprimeWithoutRounds := by
  intro s ra
  refine ⟨fun composite => ?_, fun prime => ?_⟩
  · exact isprime_endsAfter_one (by omega)
      (testStart_stage_of_fastVerdict (fastVerdict_of_composite composite) _)
  · rw [← or_assoc] at prime
    rcases prime with two_three | ⟨hn, no_rounds⟩
    · exact isprime_endsAfter_one (by omega) (testStart_stage_of_fastVerdict (fastVerdict_of_prime two_three) _)
    · exact isprime_endsAfter_one (by omega) ((testStart_stage_of_five_le hn _).trans (if_pos no_rounds))

theorem TestGives.isSome {n k : Nat} {rng rng' : Option Source} {prime : Bool} (h : TestGives n k rng prime rng')
    (hn : 5 ≤ n) (hk : 1 ≤ k) : rng.isSome = true := by
  rcases h with ⟨_, -⟩ | ⟨_, -⟩ | ⟨_, _, -⟩ | ⟨-, -, st, st', rfl, -⟩
  · omega
  · omega
  · omega
  · rfl

theorem State.setRng_eq_self {s : State} {rng : Option Source} (h : s.rng = rng) : s.setRng rng = s := by
  subst h; rfl

/-- Settles O37: the events of the command are the steps of its test, and these end as the rounds say. -/
theorem isprimeAgreesWithRounds : Obligations.IsprimeAgreesWithRounds := by
  intro s ra prime rng' gives
  obtain ⟨t, verdict, steps⟩ := testStart_ends gives
  have events := carriesTest_isprime.reaches steps s
  rw [State.setRng_eq_self rfl] at events
  refine EngineReaches.endsIn (isprime_admitted gives.isSome) (events.tail ?_) rfl
  rw [engineEvent_run rfl]
  simp only [jobEvent, primalityEvent, verdict]
  rfl

/-- Settles O38: the big-step test always gives a verdict. -/
theorem isprimeAlwaysEnds : Obligations.IsprimeAlwaysEnds := by
  intro s ra no_fault
  obtain ⟨prime, rng', gives, -⟩ := exists_testGives (n := s.reg ra) (k := s.iter.toNat) (rng := s.rng)
    fun hn hk => Option.isSome_iff_ne_none.2 fun uninit => no_fault ⟨uninit, hn, hk⟩
  exact ⟨prime, rng', isprimeAgreesWithRounds s ra prime rng' gives⟩

/-! Primes pass every round (rules R156, R165). -/

/-- In a domain a root of 1 of order a power of two is 1, or one of its repeated squares is -1. -/
theorem eq_one_or_exists_pow_eq_neg_one {R : Type*} [CommRing R] [NoZeroDivisors R] {x : R} {s : Nat}
    (h : x ^ 2 ^ s = 1) : x = 1 ∨ ∃ j, j < s ∧ x ^ 2 ^ j = -1 := by
  induction s with
  | zero => exact .inl (by simpa using h)
  | succ s ih =>
    rw [pow_succ, pow_mul, sq_eq_one_iff] at h
    rcases h with one | neg
    · exact (ih one).imp_right fun ⟨j, hj, hneg⟩ => ⟨j, by omega, hneg⟩
    · exact .inr ⟨s, by omega, neg⟩

theorem mod_eq_one_of_cast {n b : Nat} (hn : 1 < n) (h : (b : ZMod n) = 1) : b % n = 1 := by
  rw [← Nat.mod_eq_of_lt hn]
  exact (ZMod.natCast_eq_natCast_iff' b 1 n).1 (by rw [h, Nat.cast_one])

theorem mod_eq_pred_of_cast {n b : Nat} (hn : 1 ≤ n) (h : (b : ZMod n) = -1) : b % n = n - 1 := by
  have pred : ((n - 1 : Nat) : ZMod n) = -1 := by rw [Nat.cast_sub hn, ZMod.natCast_self, Nat.cast_one, zero_sub]
  rw [← Nat.mod_eq_of_lt (Nat.sub_lt hn one_pos)]
  exact (ZMod.natCast_eq_natCast_iff' b (n - 1) n).1 (h.trans pred.symm)

/-- Every witness of a prime passes (rule R156): by Fermat `a^(n-1)` is 1, and in the field of `n` elements the square
roots of 1 are 1 and -1 alone. -/
theorem roundPasses_of_prime {n a : Nat} (hp : n.Prime) (ha : 1 ≤ a) (han : a < n) : RoundPasses n a := by
  have : Fact n.Prime := ⟨hp⟩
  obtain ⟨hdec, hodd⟩ := decompose_spec hp.two_le
  have ha0 : (a : ZMod n) ≠ 0 := by
    rw [Ne, ZMod.natCast_eq_zero_iff]
    exact Nat.not_dvd_of_pos_of_lt ha han
  have fermat := ZMod.pow_card_sub_one_eq_one ha0
  rw [hdec, mul_comm, pow_mul] at fermat
  refine (roundPasses_iff hdec hodd a).2 ?_
  rcases eq_one_or_exists_pow_eq_neg_one fermat with one | ⟨j, hj, neg⟩
  · exact .inl (mod_eq_one_of_cast hp.one_lt (by exact_mod_cast one))
  · rw [← pow_mul] at neg
    have pass : a ^ ((decompose n).2 * 2 ^ j) % n = n - 1 := mod_eq_pred_of_cast hp.one_lt.le (by exact_mod_cast neg)
    cases j with
    | zero => exact .inr (.inl (by simpa using pass))
    | succ j => exact .inr (.inr ⟨j + 1, Nat.le_add_left 1 j, hj, pass⟩)

/-- Where every witness passes, every number of rounds gives "prime" (rule R165). -/
theorem exists_roundsGive_true {n : Nat} (hn : 5 ≤ n) (pass : ∀ a, 2 ≤ a → a + 2 ≤ n → RoundPasses n a) (k : Nat)
    (st : Source) : ∃ st', RoundsGive n k st true st' := by
  induction k generalizing st with
  | zero => exact ⟨st, rfl, rfl⟩
  | succ k ih =>
    have hv := drawUniform_lt st (b := n - 3) (by omega)
    obtain ⟨st', rest⟩ := ih (drawUniform st (n - 3)).1
    exact ⟨st', .inl ⟨pass _ (by omega) (by omega), rest⟩⟩

/-- Settles O39: a prime is 2 or 3, or is tested in no round, or passes every round. -/
theorem isprimeAcceptsEveryPrime : Obligations.IsprimeAcceptsEveryPrime := by
  intro s ra hp source
  have gives : ∃ rng', TestGives (s.reg ra) s.iter.toNat s.rng true rng' := by
    have two_le := hp.two_le
    have ne_four : s.reg ra ≠ 4 := fun h => absurd (h ▸ hp) (by decide)
    by_cases small : s.reg ra = 2 ∨ s.reg ra = 3
    · exact ⟨_, .inr (.inl ⟨small, rfl, rfl⟩)⟩
    have hn : 5 ≤ s.reg ra := by omega
    by_cases hk : s.iter.toNat = 0
    · exact ⟨_, .inr (.inr (.inl ⟨hn, hk, rfl, rfl⟩))⟩
    have hk : 1 ≤ s.iter.toNat := by omega
    obtain ⟨st, hst⟩ := Option.isSome_iff_exists.1 (source hn hk)
    obtain ⟨st', rounds⟩ := exists_roundsGive_true hn
      (fun a ha han => roundPasses_of_prime hp (by omega) (by omega)) s.iter.toNat st
    exact ⟨some st', .inr (.inr (.inr ⟨hn, hk, st, st', hst, rfl, rounds⟩))⟩
  obtain ⟨rng', gives⟩ := gives
  exact ⟨rng', isprimeAgreesWithRounds s ra true rng' gives⟩

/-! 6 and 9 (rule R167). -/

theorem not_roundPasses_six {a : Nat} (ha : 2 ≤ a) (hn : a + 2 ≤ 6) : ¬RoundPasses 6 a := by
  have outcomes : ∀ a < 5, 2 ≤ a → a ^ 5 % 6 ≠ 1 ∧ a ^ 5 % 6 ≠ 5 := by decide
  obtain ⟨not_one, not_pred⟩ := outcomes a (by omega) ha
  rw [roundPasses_iff (s := 0) (r := 5) rfl rfl]
  rintro (h | h | ⟨j, -, hj, -⟩)
  · exact not_one h
  · exact not_pred h
  · omega

theorem not_roundPasses_nine {a : Nat} (ha : 2 ≤ a) (hn : a + 2 ≤ 9) : ¬RoundPasses 9 a := by
  have outcomes : ∀ a < 8, 2 ≤ a → a ^ 1 % 9 ≠ 1 ∧ ∀ j < 3, a ^ (1 * 2 ^ j) % 9 ≠ 8 := by decide
  obtain ⟨not_one, not_pred⟩ := outcomes a (by omega) ha
  rw [roundPasses_iff (s := 3) (r := 1) rfl rfl]
  rintro (h | h | ⟨j, -, hj, h⟩)
  · exact not_one h
  · exact not_pred 0 (by decide) h
  · exact not_pred j hj h

/-- Settles O40: the first round begun fails, whatever its witness. -/
theorem sixAndNineAreComposite : Obligations.SixAndNineAreComposite := by
  intro s ra six_or_nine hk source
  obtain ⟨st, hst⟩ := Option.isSome_iff_exists.1 source
  obtain ⟨k, hk'⟩ : ∃ k, s.iter.toNat = k + 1 := ⟨s.iter.toNat - 1, by omega⟩
  have hn : 5 ≤ s.reg ra := by omega
  have hv := drawUniform_lt st (b := s.reg ra - 3) (by omega)
  have fails : ¬RoundPasses (s.reg ra) (2 + (drawUniform st (s.reg ra - 3)).2) := by
    generalize (drawUniform st (s.reg ra - 3)).2 = v at hv
    rcases six_or_nine with h | h <;> rw [h] at hv ⊢
    · exact not_roundPasses_six (by omega) (by omega)
    · exact not_roundPasses_nine (by omega) (by omega)
  have rounds : RoundsGive (s.reg ra) s.iter.toNat st false (drawUniform st (s.reg ra - 3)).1 := by
    rw [hk']
    exact .inr ⟨fails, rfl, rfl⟩
  exact ⟨_, isprimeAgreesWithRounds s ra false _ (.inr (.inr (.inr ⟨hn, hk, st, _, hst, rfl, rounds⟩)))⟩

end Sys2Proof.Machine
end

section
/-! PROOFS. The prime search (rules R171 to R176, R209): the events of `MAKEPRIME` against the search of rule R171, where
it ends and where it does not. -/

namespace Sys2Proof.Machine

/-- Neither `RNG_UNINIT` nor `RANGE` is raised with a valid source and `BITS <= W` (rules R171, R251). -/
theorem makeprime_admitted {s : State} {rd : Reg} (source : s.rng.isSome = true) (range : s.bits.toNat ≤ s.W) (n : Nat) :
    exec (.makeprime rd) (s.grant n)
      = issue none (.makeprime rd s.bits.toNat s.iter.toNat none) (s.grant n) := by
  have valid : (s.grant n).rngUninit = false := State.rngUninit_eq_false.2 source
  have fits : (s.grant n).bitsOutOfRange = false := State.bitsOutOfRange_eq_false.2 range
  rw [exec, execMakeprime, valid, fits]
  rfl

/-- One attempt of a search: the candidate's draw and the steps of its test, up to the verdict (rules R173, R176). -/
theorem attempt_reaches (rd : Reg) {w k : Nat} {st : Source} {rng' : Option Source} {prime : Bool}
    (gives : TestGives (candidate w (drawBits st w).2) k (some (drawBits st w).1) prime rng') (s : State) :
    ∃ t : PrimeTest, t.n = candidate w (drawBits st w).2 ∧ t.stage = .verdict prime
      ∧ EngineReaches ((s.setRng (some st)).runJob (.makeprime rd w k none))
          ((s.setRng rng').runJob (.makeprime rd w k (some t))) := by
  obtain ⟨t, verdict, steps⟩ := testStart_ends gives
  exact ⟨t, steps.n_eq, verdict, .head rfl ((carriesTest_makeprime rd w k).reaches steps s)⟩

/-- The events of a search lead where the search of rule R171 ends. -/
theorem SearchGives.reaches {w k c : Nat} {st st' : Source} (h : SearchGives w k st c st') (rd : Reg) (s : State) :
    EngineReaches ((s.setRng (some st)).runJob (.makeprime rd w k none))
      ((((s.setRng (some st')).setReg rd c).setPrime true).complete) := by
  induction h with
  | accepted st st' gives =>
    obtain ⟨t, hn, verdict, attempt⟩ := attempt_reaches rd gives s
    refine attempt.tail ?_
    rw [engineEvent_run rfl, ← hn]
    simp only [jobEvent, searchEvent, verdict]
    rfl
  | rejected st st1 st' c gives _ ih =>
    obtain ⟨t, -, verdict, attempt⟩ := attempt_reaches rd gives s
    refine (attempt.tail ?_).trans ih
    rw [engineEvent_run rfl]
    simp only [jobEvent, searchEvent, verdict]
    rfl

/-- Settles O41: the events of the command lead where the search ends. -/
theorem makeprimeAgreesWithSearch : Obligations.MakeprimeAgreesWithSearch := by
  intro s rd st st' c hst range search
  have events := search.reaches rd s
  rw [State.setRng_eq_self hst] at events
  exact events.endsIn (makeprime_admitted (by rw [hst]; rfl) range) rfl

/-- Where the search does not end, it is in flight after any number of events: an attempt is rejected, and no search from
the source that it leaves ends either (rule R175). -/
theorem search_busy {w k : Nat} {st : Source} (endless : ¬∃ c st', SearchGives w k st c st') (rd : Reg) (s : State)
    (n : Nat) : (runEngine n ((s.setRng (some st)).runJob (.makeprime rd w k none))).busy = true := by
  induction n using Nat.strong_induction_on generalizing st with
  | _ n ih =>
    obtain ⟨prime, rng', gives, valid⟩ := exists_testGives (n := candidate w (drawBits st w).2) (k := k)
      (rng := some (drawBits st w).1) fun _ _ => rfl
    obtain ⟨st1, rfl⟩ := Option.isSome_iff_exists.1 valid
    cases prime with
    | true => exact absurd ⟨_, st1, .accepted st st1 gives⟩ endless
    | false =>
      have endless' : ¬∃ c st', SearchGives w k st1 c st' :=
        fun ⟨c, st', rest⟩ => endless ⟨c, st', .rejected st st1 st' c gives rest⟩
      obtain ⟨t, -, verdict, attempt⟩ := attempt_reaches rd gives s
      obtain ⟨m, hm⟩ := attempt.exists_runEngine
      have retry : runEngine (m + 1) ((s.setRng (some st)).runJob (.makeprime rd w k none))
          = (s.setRng (some st1)).runJob (.makeprime rd w k none) := by
        rw [runEngine_add, hm, runEngine_succ, engineEvent_run rfl]
        simp only [jobEvent, searchEvent, verdict]
        rfl
      by_cases within : n ≤ m + 1
      · exact runEngine_busy_of_le within (by rw [retry]; rfl)
      · obtain ⟨d, rfl⟩ : ∃ d, n = m + 1 + d := ⟨n - (m + 1), by omega⟩
        rw [runEngine_add, retry]
        exact ih d (by omega) endless'

/-- Settles O42: no attempt of the search is the last. -/
theorem makeprimeRunsForEverWhereSearchDoes : Obligations.MakeprimeRunsForEverWhereSearchDoes := by
  intro s rd st hst range endless n
  refine ⟨_, makeprime_admitted (by rw [hst]; rfl) range n, ?_⟩
  rw [← State.setRng_eq_self hst]
  exact search_busy endless rd (s.grant n) n

/-- With no bits every candidate is 0, which the fast path rejects (rule R175). -/
theorem not_searchGives_zero {k c : Nat} {st st' : Source} : ¬SearchGives 0 k st c st' := by
  intro h
  generalize hw : 0 = w at h
  induction h with
  | accepted st st' gives =>
    subst hw
    simp [candidate, TestGives] at gives
  | rejected _ _ _ _ _ _ ih => exact ih

/-- Settles O43: with no bits the search does not end. -/
theorem makeprimeOfZeroBitsHangs : Obligations.MakeprimeOfZeroBitsHangs := by
  intro s rd source no_bits
  obtain ⟨st, hst⟩ := Option.isSome_iff_exists.1 source
  refine makeprimeRunsForEverWhereSearchDoes s rd st hst (by omega) ?_
  rintro ⟨c, st', search⟩
  rw [no_bits] at search
  exact not_searchGives_zero search

end Sys2Proof.Machine
end

section
/-! PROOFS. The random source's life (rules R189, R192, R208): `SEED` without a valid source and `RNGCLR` with one are
admitted, and end at their one event. -/

namespace Sys2Proof.Machine

/-- `RNG_REINIT` is not raised without a valid source (rules R189, R251). -/
theorem seed_admitted {s : State} {ra : Reg} (unseeded : s.rng = none) (n : Nat) :
    exec (.seed ra) (s.grant n) = issue none (.seed (s.reg ra)) (s.grant n) := by
  have invalid : (s.grant n).rngValid = false := congrArg Option.isSome unseeded
  exact congrArg (fun f => issue f _ _) ((firstFault_cons_eq_none _ _ _).2 ⟨invalid, firstFault_nil⟩)

/-- `RNG_UNINIT` is not raised with a valid source (rules R192, R251). -/
theorem rngclr_admitted {s : State} (source : s.rng.isSome = true) (n : Nat) :
    exec .rngclr (s.grant n) = issue none .rngclr (s.grant n) := by
  have valid : (s.grant n).rngUninit = false := State.rngUninit_eq_false.2 source
  exact congrArg (fun f => issue f _ _) ((firstFault_cons_eq_none _ _ _).2 ⟨valid, firstFault_nil⟩)

/-- Settles O45: the row's one condition does not hold, and the one event seeds the source from the latched register and
completes. -/
theorem seedResult : Obligations.SeedResult := by
  intro s ra unseeded
  exact endsAfter_one (seed_admitted unseeded) (fun _ => rfl) rfl

/-- Settles O46: the row's one condition does not hold, and the one event clears the source and completes. -/
theorem rngclrResult : Obligations.RngclrResult := by
  intro s source
  exact endsAfter_one (rngclr_admitted source) (fun _ => rfl) rfl

end Sys2Proof.Machine
end

section
/-! PROOFS. The command that does nothing (rules R208, R210): `NOP` has no fault condition, and ends at its one event. -/

namespace Sys2Proof.Machine

/-- No row of rule R251 names `NOP` (rule R210). -/
theorem nop_admitted (s : State) (n : Nat) : exec .nop (s.grant n) = issue none .nop (s.grant n) := rfl

/-- Settles O30: no fault condition stands before the issue, and the one event is the completion. -/
theorem nopCompletes : Obligations.NopCompletes := by
  intro s
  exact endsAfter_one (nop_admitted s) (fun _ => rfl) rfl

end Sys2Proof.Machine
end

section
/-! PROOFS. Faults (rules R250 to R255): the fault entry, no fault but at issue, and the fault table read both ways. -/

namespace Sys2Proof.Machine

/-! The fault entry (rule R253). -/

@[simp] theorem State.err_raiseFault (s : State) (c : FaultCode) : (s.raiseFault c).err = true := rfl

@[simp] theorem State.errCode_raiseFault (s : State) (c : FaultCode) : (s.raiseFault c).errCode = c.number := rfl

@[simp] theorem State.busy_raiseFault (s : State) (c : FaultCode) : (s.raiseFault c).busy = false := rfl

/-- Settles O26: the acceptance writes `CMD` and `DONE`, and the fault entry the phase alone. -/
theorem faultEntryChangesNothingElse : Obligations.FaultEntryChangesNothingElse := by
  rintro s _ w c rfl
  exact ⟨State.err_raiseFault _ c, State.errCode_raiseFault _ c, State.busy_raiseFault _ c,
    rfl, rfl, rfl, rfl, rfl, rfl, rfl, rfl, rfl, rfl, rfl⟩

/-! The engine (rule R254). -/

/-- An event of a command in flight leaves it in flight or completes it, and neither is a fault. -/
theorem jobEvent_err {job : Job} {s : State} (h : s.phase = .run job) : (jobEvent job s).err = false := by
  rcases jobEvent_cases job s h with ⟨job', running, -⟩ | ⟨idle, -⟩
  · exact State.err_eq_false.2 (.inr ⟨job', running⟩)
  · exact State.err_eq_false.2 (.inl idle)

theorem engineEvent_err (s : State) : (engineEvent s).err = s.err := by
  cases hb : s.busy with
  | false => rw [engineEvent_of_not_busy hb]
  | true =>
    obtain ⟨job, hp⟩ := State.busy_eq_true.1 hb
    rw [engineEvent_run hp, jobEvent_err hp, State.err_of_busy hb]

theorem runEngine_err (s : State) (k : Nat) : (runEngine k s).err = s.err :=
  runEngine_induction (P := fun t => t.err = s.err) (fun t kept => (engineEvent_err t).trans kept) rfl k

/-- Settles O29: every event keeps `ERR`. -/
theorem engineNeverRaisesFault : Obligations.EngineNeverRaisesFault := runEngine_err

/-! The conditions of rule R251. -/

theorem State.zeroModulus_eq_true {s : State} {rm : Reg} : s.zeroModulus rm = true ↔ s.reg rm = 0 := beq_iff_eq

theorem State.rngUninit_eq_true {s : State} : s.rngUninit = true ↔ s.rng = none := by
  simp [State.rngUninit, State.rngValid]

theorem State.bitsOutOfRange_eq_true {s : State} : s.bitsOutOfRange = true ↔ s.W < s.bits.toNat := decide_eq_true_iff

theorem testDraws_eq_true {n k : Nat} : testDraws n k = true ↔ 5 ≤ n ∧ 1 ≤ k := decide_eq_true_iff

/-! Issue by the first condition that holds (rule R255). -/

section
variable {a b : Bool} {c d : FaultCode} {rest : List (Bool × FaultCode)} {job : Job} {s : State}

theorem issue_of_first (holds : b = true) :
    issue (firstFault ((b, c) :: rest)) job s = .next (s.raiseFault c) := by
  rw [firstFault_cons, if_pos holds, issue_some]

theorem issue_of_second (first : a = false) (holds : b = true) :
    issue (firstFault ((a, d) :: (b, c) :: rest)) job s = .next (s.raiseFault c) := by
  rw [firstFault_cons, first, if_neg Bool.false_ne_true, issue_of_first holds]

end

/-- Settles O27: the condition of each row is the first of its command that holds; for `RANGE` the valid source excludes
`RNG_UNINIT` before it. -/
theorem faultTable : Obligations.FaultTable := by
  refine ⟨⟨rfl, rfl, rfl, rfl, rfl⟩, fun s => ⟨?_, ?_, ?_⟩⟩
  · intro rd ra rb rm modulus
    have zero : s.zeroModulus rm = true := State.zeroModulus_eq_true.2 modulus
    exact ⟨issue_of_first zero, issue_of_first zero, issue_of_first zero⟩
  · intro unseeded
    have uninit : s.rngUninit = true := State.rngUninit_eq_true.2 unseeded
    refine ⟨issue_of_first uninit, fun rd ra =>
      ⟨issue_of_first uninit, issue_of_first uninit, issue_of_first uninit, fun large rounds => ?_⟩⟩
    have draws : testDraws (s.reg ra) s.iter.toNat = true := testDraws_eq_true.2 ⟨large, rounds⟩
    exact issue_of_first (Bool.and_eq_true_iff.2 ⟨draws, uninit⟩)
  · intro source
    have init : s.rngUninit = false := State.rngUninit_eq_false.2 source
    refine ⟨fun ra => issue_of_first source, fun rd ra => ⟨fun wide => ?_, fun bound => ?_⟩⟩
    · have range : s.bitsOutOfRange = true := State.bitsOutOfRange_eq_true.2 wide
      exact ⟨issue_of_second init range, issue_of_second init range⟩
    · exact issue_of_second init (beq_iff_eq.2 bound)

/-! A fault comes from a condition (rule R254). -/

/-- What an issue answers with `ERR` is its fault entry: the engine events after an admitted command raise nothing. -/
theorem fault_of_issue_err {f : Option FaultCode} {job : Job} {s t : State} (h : issue f job s = .next t)
    (err : t.err = true) : f ≠ none := by
  rintro rfl
  rcases issue_next h with ⟨_, none_eq, -⟩ | ⟨-, rfl⟩
  · cases none_eq
  · rw [runEngine_err] at err
    exact Bool.false_ne_true err

theorem firstFault_cons_ne_none {b : Bool} {c : FaultCode} {rest : List (Bool × FaultCode)} :
    firstFault ((b, c) :: rest) ≠ none ↔ b = true ∨ firstFault rest ≠ none := by
  cases b <;> simp [firstFault_cons]

/-- A fault of a command with one condition. -/
theorem holds_of_fault {b : Bool} {c : FaultCode} (h : firstFault [(b, c)] ≠ none) : b = true := by
  simpa [firstFault_cons_ne_none] using h

/-- A fault of a command with the conditions `RNG_UNINIT` and another. -/
theorem unseeded_or_of_fault {s : State} {b : Bool} {c d : FaultCode}
    (h : firstFault [(s.rngUninit, c), (b, d)] ≠ none) : s.rng = none ∨ b = true := by
  rcases firstFault_cons_ne_none.1 h with uninit | second
  · exact .inl (State.rngUninit_eq_true.1 uninit)
  · exact .inr (holds_of_fault second)

/-- Settles O28: a command that ends in a fault was refused at its issue, by one of its conditions. -/
theorem noFaultOutsideTheTable : Obligations.NoFaultOutsideTheTable := by
  intro s t i h err
  cases i with
  | nop => exact fault_of_issue_err (f := none) (job := .nop) (s := s) h err rfl
  | gcd rd ra rb =>
    exact fault_of_issue_err (f := none) (job := .gcd rd (gcdStart (s.reg ra) (s.reg rb))) (s := s) h err rfl
  | modmul rd ra rb rm => exact State.zeroModulus_eq_true.1 (holds_of_fault (fault_of_issue_err h err))
  | modexp rd ra rb rm => exact State.zeroModulus_eq_true.1 (holds_of_fault (fault_of_issue_err h err))
  | modinv rd ra rm => exact State.zeroModulus_eq_true.1 (holds_of_fault (fault_of_issue_err h err))
  | isprime ra =>
    obtain ⟨draws, uninit⟩ := Bool.and_eq_true_iff.1 (holds_of_fault (fault_of_issue_err h err))
    exact ⟨State.rngUninit_eq_true.1 uninit, testDraws_eq_true.1 draws⟩
  | makeprime rd => exact (unseeded_or_of_fault (fault_of_issue_err h err)).imp_right State.bitsOutOfRange_eq_true.1
  | seed ra => exact holds_of_fault (fault_of_issue_err h err)
  | rngclr => exact State.rngUninit_eq_true.1 (holds_of_fault (fault_of_issue_err h err))
  | rndbits rd => exact (unseeded_or_of_fault (fault_of_issue_err h err)).imp_right State.bitsOutOfRange_eq_true.1
  | rnduni rd ra => exact (unseeded_or_of_fault (fault_of_issue_err h err)).imp_right beq_iff_eq.1

end Sys2Proof.Machine
end

section
/-! PROOFS. Reset and the wait for the host (rules R39, R280, R281): the reset input in every phase, and a step with no
access to come. -/

namespace Sys2Proof.Machine

/-- The reset input as a step: its access is taken from the script, and no engine event follows (rule R280). -/
theorem step_reset {s : State} {n : Nat} {rest : List HostStep}
    (h : s.host = { access := .reset, turns := n } :: rest) : step s = .next (s.arrive rest n).hardReset :=
  step_cons h

/-- A reset that arrives leaves nothing of the state but its width, and the script and the events granted. -/
theorem State.hardReset_arrive (s : State) (rest : List HostStep) (n : Nat) :
    (s.arrive rest n).hardReset = ((State.resetFor s.W).setHost rest).grant n := rfl

/-- Settles O7: the phase is not asked for, so a command in flight is abandoned and a fault is left. -/
theorem resetInputAbandonsEverything : Obligations.ResetInputAbandonsEverything := by
  intro s n rest reset
  rw [step_reset reset, State.hardReset_arrive]

/-- Settles O12: the step is one engine event, and without a command in flight that event changes nothing. -/
theorem blockWaitsForHost : Obligations.BlockWaitsForHost := by
  intro s noAccess notBusy
  rw [step_nil noAccess, engineEvent_of_not_busy notBusy]

end Sys2Proof.Machine
end
